-- ==== Sys2Proof/Word.lean ====
section
/-! DEFINITION. The words and indexes of the block, at the widths of 00_scope.md rule R10.
Register contents and instruction fields are bit vectors; a pin and a slice are indexes into register
spaces of 30 and 8 (rule R6), so they are bounded numbers, as 40_topology.md rule R103 asks. -/

namespace Sys2Proof

/-- The 48-bit command word `OP, A, F` (30_encoding.md rule R80). -/
abbrev CommandWord := BitVec 48

/-- A requested frequency in hertz, 32 bits unsigned (R10). -/
abbrev Freq := BitVec 32

/-- A period (wrap) or level in ticks, 16 bits unsigned (R10). -/
abbrev Ticks := BitVec 16

/-- A duty cycle in percent, 7 bits unsigned (R10). -/
abbrev Duty := BitVec 7

/-- A GPIO pin, 0 to 29 (R6, R103). -/
abbrev Pin := Fin 30

/-- A PWM slice, 0 to 7 (R6). -/
abbrev SliceIx := Fin 8

/-- The clock divider's value type `DivT` under `NUM = EXACT`: an exact rational (R9, log 3). -/
abbrev DivT := Rat

/-- A channel of a slice, A = 0 and B = 1 (R10, 10_state.md rule R24). -/
inductive Channel where
  | a
  | b
  deriving DecidableEq, Repr

end Sys2Proof
end

