-- ==== Sys2Proof/Config.lean ====
section
/-! DEFINITION. What an implementation fixes: the calculator's constants (00_scope.md rule R7), the clock
rate parameter (R5), the number of instances at reset (R8, log 1), and the shape of the numeric configuration
`NUM` (41_frequency_conversion.md rule R111). -/

namespace Sys2Proof

/-- `WRAP_MAX` (R7). -/
abbrev wrapMax : Nat := 65535
/-- `WRAP_MIN` (R7). -/
abbrev wrapMin : Nat := 2
/-- `DIV_MAX` (R7). -/
abbrev divMax : DivT := 255
/-- `DIV_MIN` (R7). -/
abbrev divMin : DivT := 1
/-- `DUTY_MAX` (R7); `DUTY_MIN` is 0. -/
abbrev dutyMax : Int := 100
/-- The highest pin number (R6); the lowest is 0. -/
abbrev pinMax : Int := 29

/-- The static configuration of the whole system (R5): one clock rate shared by every controller.
DESIGN CHOICE (log 2, safe): State carries it, so that a claim holds for every clock rate; no step changes it. -/
structure Config where
  /-- `SYS_CLK_HZ`, at least 1 (R5). -/
  sysClkHz : BitVec 32
  deriving DecidableEq, Repr

/-- The reference hardware: 125,000,000 Hz (R5). -/
def Config.reference : Config := ⟨125000000⟩

/-- `S` of file 41. -/
abbrev Config.S (c : Config) : Nat := c.sysClkHz.toNat

/-- The parameter's range, 1 <= SYS_CLK_HZ (R5); the upper bound 2^32 - 1 is its width. -/
abbrev Config.Wf (c : Config) : Prop := 1 ≤ c.S

/-- `N_INST` of `State.reset`. DESIGN CHOICE (log 1, unsafe): R8 leaves it a parameter of at least 1; two is the
least with which every behaviour of the spec (port selection, slice sharing, the shared halt) occurs. -/
def Config.resetInstances : Nat := 2

/-- A value that may be the one extra element `+inf` (00_scope.md rule R13). -/
inductive Ext (α : Type) where
  | fin (v : α)
  | posInf
  deriving DecidableEq, Repr

/-- The numeric configuration `NUM`: the five primitives over a set `V` of divider-path values (R111).
Only a quotient can be `+inf`, and both consumers of a quotient clamp it away. -/
structure Num (V : Type) where
  cvt : Nat → V
  fmul : V → V → V
  fdiv : V → V → Ext V
  clampDiv : Ext V → V
  toWrap : Ext V → Nat

end Sys2Proof
end

