-- ==== Sys2Proof/Syntax.lean ====
section
/-! DEFINITION. The five commands, one constructor per row of spec/opcode_table.json (30_encoding.md rule R81). -/

namespace Sys2Proof

/-- A decoded command (R85). A pin or duty operand is the mathematical integer `sext_8(A)`, compared as an
integer and not masked or wrapped first (R83); a frequency operand is the 32-bit field F (R84). -/
inductive Instr where
  /-- `construct(pin, frequency)` -/
  | construct (pin : Int) (freq : Freq)
  /-- `setGpio(pin)` -/
  | setGpio (pin : Int)
  /-- `setFrequency(frequency)` -/
  | setFreq (freq : Freq)
  /-- `on(dutyCycle)` -/
  | on (duty : Int)
  /-- `off()` -/
  | off
  deriving DecidableEq, Repr

/-- The mnemonics of rule R81. -/
inductive Mnemonic where
  | construct
  | setGpio
  | setFreq
  | on
  | off
  deriving DecidableEq, Repr

/-- The mnemonic as the opcode table spells it. -/
def Mnemonic.name : Mnemonic → String
  | .construct => "CONSTRUCT"
  | .setGpio => "SETGPIO"
  | .setFreq => "SETFREQ"
  | .on => "ON"
  | .off => "OFF"

/-- The row of the opcode table a command belongs to. -/
def Instr.mnemonic : Instr → Mnemonic
  | .construct _ _ => .construct
  | .setGpio _ => .setGpio
  | .setFreq _ => .setFreq
  | .on _ => .on
  | .off => .off

end Sys2Proof
end

