-- ==== Sys2Proof/Machine/State.lean ====
section
/-! DEFINITION. The state of the system (10_state.md): controllers, fault register and register image (rule R20),
the block's outputs (the event trace, 20_memory.md rule R69, and the responses, 30_encoding.md rule R88), and the
host's side of the interface (70_reset_and_hazards.md rule R225). -/

namespace Sys2Proof.Machine

open Sys2Proof

/-- The eight attributes of a constructed controller (R22 to R29). -/
structure Controller where
  /-- R22: the bound GPIO pin. -/
  pin : Pin
  /-- R23: the hardware slice derived from the pin. -/
  slice : SliceIx
  /-- R24: the channel derived from the pin. -/
  channel : Channel
  /-- R25: the REQUESTED frequency, exactly as given. -/
  frequencyHz : Freq
  /-- R26: the clock divider. -/
  clockDivider : DivT
  /-- R27: the period in ticks. -/
  wrap : Ticks
  /-- R28: the requested duty cycle. -/
  dutyCyclePercent : Duty
  /-- R29: driving the waveform (true) or forced low (false). -/
  enabled : Bool
  deriving DecidableEq, Repr

/-- The selected function of a pin (R41). -/
inductive PinFunc where
  /-- deinitialised -/
  | none
  /-- initialised as a software-driven pin -/
  | sio
  /-- connected to its PWM slice and channel -/
  | pwm
  deriving DecidableEq, Repr

/-- The register image of the two collaborators (R37 to R42). Each register holds a value or is unwritten (`none`,
the spec's own reset value: R45, 93_implementation_defined.md U4). Read and written through Machine/Ops.lean. -/
structure Image where
  /-- `DIV[s]` (R37). -/
  divRegs : Vector (Option DivT) 8
  /-- `TOP[s]` (R38). -/
  topRegs : Vector (Option Ticks) 8
  /-- `CC[s][A]` (R39). -/
  ccARegs : Vector (Option Ticks) 8
  /-- `CC[s][B]` (R39). -/
  ccBRegs : Vector (Option Ticks) 8
  /-- `EN[s]` (R40). -/
  enRegs : Vector (Option Bool) 8
  /-- `FUNC[p]` (R41). -/
  funcRegs : Vector (Option PinFunc) 30
  /-- `OUT[p]` (R42). -/
  outRegs : Vector (Option Bool) 30
  deriving DecidableEq, Repr

/-- Every register unwritten (R45). -/
def Image.unwritten : Image where
  divRegs := Vector.replicate 8 none
  topRegs := Vector.replicate 8 none
  ccARegs := Vector.replicate 8 none
  ccBRegs := Vector.replicate 8 none
  enRegs := Vector.replicate 8 none
  funcRegs := Vector.replicate 30 none
  outRegs := Vector.replicate 30 none

/-- One collaborator call (20_memory.md rules R52 to R59). -/
inductive Call where
  | setClkDiv (s : SliceIx) (d : DivT)
  | setPeriod (s : SliceIx) (w : Ticks)
  | setLevel (s : SliceIx) (ch : Channel) (l : Ticks)
  | setSliceEnabled (s : SliceIx) (b : Bool)
  | gpioDeinit (p : Pin)
  | gpioInit (p : Pin)
  /-- the function argument is always PWM (R58) -/
  | gpioSetFunctionPwm (p : Pin)
  | gpioSetOutput (p : Pin) (b : Bool)
  deriving DecidableEq, Repr

/-- The four fault causes (60_exceptions.md rule R180). -/
inductive Cause where
  /-- code 1: InvalidConfiguration(PIN) -/
  | invalidPin
  /-- code 2: InvalidConfiguration(DUTY) -/
  | invalidDuty
  /-- code 3: IllegalCommand -/
  | illegalCommand
  /-- code 4: SequenceError -/
  | sequenceError
  deriving DecidableEq, Repr

/-- The recorded information: the operand for codes 1 and 2, the word for codes 3 and 4 (R180). -/
inductive FaultInfo where
  | operand (v : Int)
  | word (w : CommandWord)
  deriving DecidableEq, Repr

/-- The fault register's record `(cause, k, info)` (R35, R187). -/
structure FaultRecord where
  cause : Cause
  k : Nat
  info : FaultInfo
  deriving DecidableEq, Repr

/-- The answer to one command: `OK` or `FAULT(cause)`, no data (R88). -/
inductive Response where
  | ok
  | fault (cause : Cause)
  deriving DecidableEq, Repr

/-- What the host can do to a running system (R225): assert reset, or present a word at a port. -/
inductive HostInput where
  | reset
  | command (k : Nat) (w : CommandWord)
  deriving DecidableEq, Repr

/-- The whole machine. `inst`, `fault` and `image` are the spec's state (R20). -/
structure State where
  /-- The configuration, constant (R5; log 2). -/
  config : Config
  /-- `inst[k]`: `none` is unconstructed (R21). Its length is `N_INST` (R8; log 1). -/
  inst : List (Option Controller)
  /-- The one fault register; `none` is empty (R35). -/
  fault : Option FaultRecord
  /-- The register image, shared by all instances (R20). -/
  image : Image
  /-- The event trace since reset, each call with the instance that made it (R69). -/
  trace : List (Nat × Call)
  /-- The responses since reset, oldest first (R88). -/
  responses : List Response
  /-- What the host will do, the next first (R36, R224; log 4). -/
  inputs : List HostInput
  /-- The port at which the present command stands (R87; log 4). -/
  port : Nat
  deriving DecidableEq, Repr

/-- Why the machine stops. -/
inductive Fault where
  /-- Raised by `step` and by every meaning when the fault register holds a record: a command presented to a halted
  system has no step (60_exceptions.md rule R188). Safe: the spec gives no transition here. -/
  | halted
  deriving DecidableEq, Repr

/-- Why the model has no step. -/
inductive Refusal where
  /-- The arm of an instruction that has no meaning yet. Safe. Raised by no arm of this model. -/
  | notModelled (mnemonic : String)
  /-- Raised by `step` when the host presents nothing: the block waits, and a wait is no transition
  (70_reset_and_hazards.md rules R212 and R224; log 7). Safe. -/
  | noCommand
  /-- Raised by `step` and by every meaning when the port is not below `N_INST`: such a number "names no port and
  cannot be presented" (R225; log 8). Safe. -/
  | noSuchPort
  deriving DecidableEq, Repr

/-- The reset state of a system of `n` controllers under a configuration (R45, R210). -/
def State.resetOf (config : Config) (n : Nat) : State where
  config := config
  inst := List.replicate n none
  fault := none
  image := Image.unwritten
  trace := []
  responses := []
  inputs := []
  port := 0

/-- The machine right after reset: the reference clock rate (R5) and two controllers (log 1). -/
def State.reset : State := State.resetOf Config.reference Config.resetInstances

end Sys2Proof.Machine
end

