-- ==== Sys2Proof/Machine/Flags.lean ====
section
/-! DEFINITION. The block's one status flag per instance, `enabled`, which is also the state of the enable state
machine (10_state.md rule R34). There are no arithmetic flags. -/

namespace Sys2Proof.Machine

open Sys2Proof

/-- The flag after a completed command (R34): CONSTRUCT enters Disabled, ON enters Enabled, OFF enters Disabled,
SETFREQ and SETGPIO keep the state. -/
def enabledAfter (m : Mnemonic) (before : Bool) : Bool :=
  match m with
  | .construct => false
  | .setGpio => before
  | .setFreq => before
  | .on => true
  | .off => false

/-- `ApplyEnable(c)` (42_controller_ops.md rule R143): make the hardware agree with the flag. -/
def Controller.applyEnable (c : Controller) : List Call :=
  if c.enabled then [.gpioSetFunctionPwm c.pin, .setSliceEnabled c.slice true]
  else [.setSliceEnabled c.slice false, .gpioInit c.pin, .gpioSetOutput c.pin false]

end Sys2Proof.Machine
end

