-- ==== Sys2Proof/Machine/FreqConv.lean ====
section
/-! DEFINITION. The calculator (41_frequency_conversion.md): rounding, clamping, the frequency conversion written over
the numeric configuration `NUM`, its reference instantiation EXACT, and the level computation. -/

namespace Sys2Proof.Machine

open Sys2Proof

/-- `Clamp(x, lo, hi)` for `lo <= hi` (R118). -/
def clamp {α : Type} [LT α] [DecidableLT α] (lo hi x : α) : α :=
  if x < lo then lo else if hi < x then hi else x

/-- `Clamp` where `+inf` gives the upper bound (R118). -/
def clampExt {α : Type} [LT α] [DecidableLT α] (lo hi : α) : Ext α → α
  | .fin x => clamp lo hi x
  | .posInf => hi

/-- `RoundHA(q) = floor(q + 1/2)` for a rational `q >= 0` (R117): half away from zero, which is upward here. -/
def roundHA (q : Rat) : Nat := (q + 1 / 2).floor.toNat

/-- `RoundHA(+inf) = +inf` (R117). -/
def roundHAExt : Ext Rat → Ext Nat
  | .fin q => .fin (roundHA q)
  | .posInf => .posInf

/-- `NUM = EXACT` (R111): exact rationals, and `+inf` for a quotient with a zero denominator (R116). The numerator is
the clock rate, which is never zero; log 14 says what this totality means outside that range. -/
def Num.exact : Num Rat where
  cvt n := (n : Rat)
  fmul a b := a * b
  fdiv a b := if b = 0 then .posInf else .fin (a / b)
  clampDiv x := clampExt divMin divMax x
  toWrap x := clampExt wrapMin wrapMax (roundHAExt x)

/-- Step 1, the provisional divider `d0` (R112). -/
def provisionalDiv {V : Type} (num : Num V) (S f : Nat) : V :=
  num.clampDiv (num.fdiv (num.cvt S) (num.fmul (num.cvt f) (num.cvt wrapMax)))

/-- Step 2, the period (R113). -/
def periodFor {V : Type} (num : Num V) (S f : Nat) : Nat :=
  num.toWrap (num.fdiv (num.cvt S) (num.fmul (num.cvt f) (provisionalDiv num S f)))

/-- Step 3, the final divider (R114). -/
def dividerFor {V : Type} (num : Num V) (S f : Nat) : V :=
  num.clampDiv (num.fdiv (num.cvt S) (num.fmul (num.cvt f) (num.cvt (periodFor num S f))))

/-- `FreqConv(S, f)` under a numeric configuration: the pair of step 4 (R110, R115). -/
def freqConvWith {V : Type} (num : Num V) (S f : Nat) : V × Nat := (dividerFor num S f, periodFor num S f)

/-- `FreqConv(S, f)` under `NUM = EXACT`, the reference configuration (R9, R111; log 3). -/
def freqConv (S f : Nat) : DivT × Nat := freqConvWith Num.exact S f

/-- `Level(w, d) = (w * d + 50) div 100`, in exact integer arithmetic whatever `NUM` is (R125). -/
def levelNat (w d : Nat) : Nat := (w * d + 50) / 100

/-- The level as the 16-bit register takes it; nothing is lost for a duty of at most 100 (R126; log 13). -/
def level (w : Ticks) (d : Duty) : Ticks := BitVec.ofNat 16 (levelNat w.toNat d.toNat)

/-- The frequency the source attributes to a programmed pair, `S / (clockDivider * wrap)` (R121). The block does not
compute it. -/
def achievedHz (S : Nat) (d : DivT) (w : Nat) : Rat := (S : Rat) / (d * (w : Rat))

end Sys2Proof.Machine
end

