-- ==== Sys2Proof/Machine/Operands.lean ====
section
/-! DEFINITION. The operand checks of stage 3 (42_controller_ops.md rule R140). A frequency has none: it never
faults (60_exceptions.md rule R185, 42 R153). -/

namespace Sys2Proof.Machine

open Sys2Proof

/-- A pin operand in 0 to 29, compared as an integer (60_exceptions.md rule R181, 30_encoding.md rule R83). -/
def pinOperand (p : Int) : Option Pin :=
  if h : 0 ≤ p ∧ p ≤ pinMax then some ⟨p.toNat, by unfold pinMax at h; omega⟩ else none

/-- A duty operand in 0 to 100, compared as an integer (60_exceptions.md rule R182). -/
def dutyOperand (d : Int) : Option Duty :=
  if 0 ≤ d ∧ d ≤ dutyMax then some (BitVec.ofNat 7 d.toNat) else none

end Sys2Proof.Machine
end

