-- ==== Sys2Proof/WellFormed.lean ====
section
/-! DEFINITION. Which commands can be written as a word: field A holds -128 to 127 (30_encoding.md rules R83 and
R89). The frequency operand is a 32-bit field already, so every value of it can be written (R84). -/

namespace Sys2Proof

/-- An integer that field A can hold (R83). -/
def fitsFieldA (v : Int) : Bool := decide (-128 ≤ v) && decide (v ≤ 127)

/-- The commands that have a word. An operand outside a command's LEGAL range but inside the field's (pin 30,
duty -1) is well formed: it decodes, and the command faults on it (R83). -/
def Instr.wellFormed : Instr → Bool
  | .construct pin _ => fitsFieldA pin
  | .setGpio pin => fitsFieldA pin
  | .setFreq _ => true
  | .on duty => fitsFieldA duty
  | .off => true

end Sys2Proof
end

