-- ==== Sys2Proof/Decode.lean ====
section
/-! DEFINITION. From command words to commands and back (30_encoding.md rules R80 to R86). Decoding depends on the
word alone (R85). The word has no byte order: it is presented whole (20_memory.md rule R61, log 16). -/

namespace Sys2Proof

/-- `OP = word[47:40]` (R80). -/
def opField (w : CommandWord) : BitVec 8 := w.extractLsb' 40 8

/-- `A = word[39:32]` (R80). -/
def aField (w : CommandWord) : BitVec 8 := w.extractLsb' 32 8

/-- `F = word[31:0]` (R80). -/
def fField (w : CommandWord) : BitVec 32 := w.extractLsb' 0 32

/-- `sext_8` (00_scope.md rule R12): the field read as a two's complement integer. -/
def sext8 (a : BitVec 8) : Int := a.toInt

/-- Why a word is reserved (R86). -/
inductive Reserved where
  /-- OP is 0x00 or 0x06 to 0xFF (R81) -/
  | unassignedOp
  /-- a must-be-zero field A is not zero (R84) -/
  | nonzeroA
  /-- a must-be-zero field F is not zero (R84) -/
  | nonzeroF
  deriving DecidableEq, Repr

/-- `Command | Reserved` (R85). -/
inductive Decoded where
  | command (i : Instr)
  | reserved (why : Reserved)
  deriving DecidableEq, Repr

/-- The decoder (R85), total on 48-bit words. -/
def decode (w : CommandWord) : Decoded :=
  if opField w = 0x01#8 then .command (.construct (sext8 (aField w)) (fField w))
  else if opField w = 0x02#8 then
    if fField w = 0#32 then .command (.setGpio (sext8 (aField w))) else .reserved .nonzeroF
  else if opField w = 0x03#8 then
    if aField w = 0#8 then .command (.setFreq (fField w)) else .reserved .nonzeroA
  else if opField w = 0x04#8 then
    if fField w = 0#32 then .command (.on (sext8 (aField w))) else .reserved .nonzeroF
  else if opField w = 0x05#8 then
    if aField w = 0#8 then
      if fField w = 0#32 then .command .off else .reserved .nonzeroF
    else .reserved .nonzeroA
  else .reserved .unassignedOp

/-- The command of a decoding, if it is one. -/
def Decoded.toOption : Decoded → Option Instr
  | .command i => some i
  | .reserved _ => none

/-- The decoder at a word given as a number, bit 0 its least significant bit (the host's numbering). Every row of
the opcode table is one 48-bit word, so bits above `nbits` are 0. -/
def decodeTableWord (nbits w : Nat) : Option Instr := (decode (BitVec.ofNat 48 (w % 2 ^ nbits))).toOption

/-- The operation code of each mnemonic (R81). -/
def Mnemonic.opcode : Mnemonic → BitVec 8
  | .construct => 0x01#8
  | .setGpio => 0x02#8
  | .setFreq => 0x03#8
  | .on => 0x04#8
  | .off => 0x05#8

/-- Field A of a command; zero where the format does not use it (R82, R89). -/
def Instr.aBits : Instr → BitVec 8
  | .construct pin _ => BitVec.ofInt 8 pin
  | .setGpio pin => BitVec.ofInt 8 pin
  | .setFreq _ => 0#8
  | .on duty => BitVec.ofInt 8 duty
  | .off => 0#8

/-- Field F of a command; zero where the format does not use it (R82, R89). -/
def Instr.fBits : Instr → BitVec 32
  | .construct _ freq => freq
  | .setGpio _ => 0#32
  | .setFreq freq => freq
  | .on _ => 0#32
  | .off => 0#32

/-- The encoder: `word = OP, A, F` from the most significant end (R80). -/
def encode (i : Instr) : CommandWord := i.mnemonic.opcode ++ i.aBits ++ i.fBits

/-- One row of the opcode table: a word is the row's command exactly when `(w AND mask) = match` (R82). -/
structure OpcodeRow where
  mnemonic : Mnemonic
  matchWord : CommandWord
  maskWord : CommandWord
  deriving DecidableEq, Repr

/-- `(w AND mask) = match` (R82). -/
def OpcodeRow.covers (r : OpcodeRow) (w : CommandWord) : Bool := (w &&& r.maskWord) == r.matchWord

/-- The opcode table's five rows (R82). -/
def opcodeTable : List OpcodeRow :=
  [ ⟨.construct, 0x010000000000#48, 0xFF0000000000#48⟩,
    ⟨.setGpio, 0x020000000000#48, 0xFF00FFFFFFFF#48⟩,
    ⟨.setFreq, 0x030000000000#48, 0xFFFF00000000#48⟩,
    ⟨.on, 0x040000000000#48, 0xFF00FFFFFFFF#48⟩,
    ⟨.off, 0x050000000000#48, 0xFFFFFFFFFFFF#48⟩ ]

end Sys2Proof
end

