-- ==== Sys2Proof/Machine/Ops.lean ====
section
/-! DEFINITION. The named operations over State: reading and writing the register image (20_memory.md), making calls,
answering a command, entering a fault (60_exceptions.md rule R187) and asserting reset (70_reset_and_hazards.md
rule R210, the only way out of the halted state). -/

namespace Sys2Proof.Machine

open Sys2Proof

/-! ### The register image: one home per register -/

/-- `DIV[s]` (10_state.md rule R37). -/
def Image.div (im : Image) (s : SliceIx) : Option DivT := im.divRegs[s.val]

/-- `TOP[s]` (R38). -/
def Image.top (im : Image) (s : SliceIx) : Option Ticks := im.topRegs[s.val]

/-- `CC[s][ch]` (R39). -/
def Image.cc (im : Image) (s : SliceIx) : Channel → Option Ticks
  | .a => im.ccARegs[s.val]
  | .b => im.ccBRegs[s.val]

/-- `EN[s]` (R40). -/
def Image.en (im : Image) (s : SliceIx) : Option Bool := im.enRegs[s.val]

/-- `FUNC[p]` (R41). -/
def Image.func (im : Image) (p : Pin) : Option PinFunc := im.funcRegs[p.val]

/-- `OUT[p]` (R42). -/
def Image.out (im : Image) (p : Pin) : Option Bool := im.outRegs[p.val]

/-- `DIV[s] <- d` (20_memory.md rule R52). -/
def Image.setDiv (im : Image) (s : SliceIx) (d : DivT) : Image :=
  { im with divRegs := im.divRegs.set s.val (some d) s.isLt }

/-- `TOP[s] <- w` (R53). -/
def Image.setTop (im : Image) (s : SliceIx) (w : Ticks) : Image :=
  { im with topRegs := im.topRegs.set s.val (some w) s.isLt }

/-- `CC[s][ch] <- l`; the other channel's register does not change (R54). -/
def Image.setCc (im : Image) (s : SliceIx) (ch : Channel) (l : Ticks) : Image :=
  match ch with
  | .a => { im with ccARegs := im.ccARegs.set s.val (some l) s.isLt }
  | .b => { im with ccBRegs := im.ccBRegs.set s.val (some l) s.isLt }

/-- `EN[s] <- b` (R55). -/
def Image.setEn (im : Image) (s : SliceIx) (b : Bool) : Image :=
  { im with enRegs := im.enRegs.set s.val (some b) s.isLt }

/-- `FUNC[p] <- fn` (R56 to R58). -/
def Image.setFunc (im : Image) (p : Pin) (fn : PinFunc) : Image :=
  { im with funcRegs := im.funcRegs.set p.val (some fn) p.isLt }

/-- `OUT[p] <- b` (R59). -/
def Image.setOut (im : Image) (p : Pin) (b : Bool) : Image :=
  { im with outRegs := im.outRegs.set p.val (some b) p.isLt }

/-- The effect of one call: an indivisible write of one whole register (R52 to R59, R63). -/
def Image.apply (im : Image) : Call → Image
  | .setClkDiv s d => im.setDiv s d
  | .setPeriod s w => im.setTop s w
  | .setLevel s ch l => im.setCc s ch l
  | .setSliceEnabled s b => im.setEn s b
  | .gpioDeinit p => im.setFunc p .none
  | .gpioInit p => im.setFunc p .sio
  | .gpioSetFunctionPwm p => im.setFunc p .pwm
  | .gpioSetOutput p b => im.setOut p b

/-- Calls made one after another, each in full effect before the next (R65). -/
def Image.applyAll (im : Image) (calls : List Call) : Image := calls.foldl Image.apply im

/-- The image a trace leaves: the reset image with every call applied in order (R69). -/
def Image.replay (trace : List (Nat × Call)) : Image := Image.unwritten.applyAll (trace.map Prod.snd)

/-- Every image a command passes through, from before its first call to after its last (R63, R65;
70_reset_and_hazards.md rule R219). -/
def Image.during (im : Image) (calls : List Call) : List Image := calls.scanl Image.apply im

/-! ### Executing a command -/

/-- Fault entry (R187): the record is written and `FAULT(cause)` is answered; nothing else changes. -/
def State.takeFault (s : State) (cause : Cause) (info : FaultInfo) : State :=
  { s with fault := some ⟨cause, s.port, info⟩, responses := s.responses ++ [.fault cause] }

/-- Stages 4 and 5 of a command (42_controller_ops.md rule R140): the controller at the port gets its new attributes,
the calls are made in order and join the trace, and `OK` is answered. The command is one transition, so the
attributes may be written at once (log 10). -/
def State.complete (s : State) (c : Controller) (calls : List Call) : State :=
  { s with
    inst := s.inst.set s.port (some c)
    image := s.image.applyAll calls
    trace := s.trace ++ calls.map (fun call => (s.port, call))
    responses := s.responses ++ [.ok] }

/-- Stage 0 (R140, R188) and the selection of the instance at the port (30_encoding.md rule R87). -/
def State.atPort (s : State) (body : Option Controller → Host.Outcome State Fault Refusal) :
    Host.Outcome State Fault Refusal :=
  match s.fault with
  | some _ => .fault .halted
  | none =>
    match s.inst[s.port]? with
    | none => .refused .noSuchPort
    | some slot => body slot

/-- Stage 2 for a command other than CONSTRUCT: SequenceError on an unconstructed instance, with the command word
recorded (60_exceptions.md rule R184; log 15). -/
def State.onConstructed (s : State) (i : Instr) (body : Controller → Host.Outcome State Fault Refusal) :
    Host.Outcome State Fault Refusal :=
  s.atPort fun slot =>
    match slot with
    | none => .next (s.takeFault .sequenceError (.word (encode i)))
    | some c => body c

/-- Stage 2 for CONSTRUCT: SequenceError on a constructed instance (R184). -/
def State.onUnconstructed (s : State) (i : Instr) (body : Host.Outcome State Fault Refusal) :
    Host.Outcome State Fault Refusal :=
  s.atPort fun slot =>
    match slot with
    | some _ => .next (s.takeFault .sequenceError (.word (encode i)))
    | none => body

/-- Reset asserted (R210): every instance unconstructed, the fault register empty, every image register unwritten.
The configuration and the number of instances are not touched (R225), nor is what the host will present
next (log 5). -/
def State.assertReset (s : State) (rest : List HostInput) : State :=
  { State.resetOf s.config s.inst.length with inputs := rest }

/-! ### Codes on the wire -/

/-- The cause codes (60_exceptions.md rule R180). -/
def Cause.code : Cause → Nat
  | .invalidPin => 1
  | .invalidDuty => 2
  | .illegalCommand => 3
  | .sequenceError => 4

/-- The 3-bit status of a response: 0 is OK, 1 to 4 are FAULT with that code (30_encoding.md rule R88). -/
def Response.status : Response → BitVec 3
  | .ok => 0#3
  | .fault cause => BitVec.ofNat 3 cause.code

end Sys2Proof.Machine
end

