-- ==== Sys2Proof/Machine/Topology.lean ====
section
/-! DEFINITION. The topology table (40_topology.md): which slice and channel a pin belongs to. -/

namespace Sys2Proof.Machine

open Sys2Proof

/-- `Topo(p)` (R100): slice `(p div 2) mod 8`, channel A for an even pin and B for an odd one. The bounded type
keeps it inside its domain (R103). -/
def topo (p : Pin) : SliceIx × Channel :=
  (⟨p.val / 2 % 8, Nat.mod_lt _ (by decide)⟩, if p.val % 2 = 0 then .a else .b)

/-- The wiring form (R102): `slice = p[3:1]`, `channel = p[0]`, on the pin as a 5-bit value. -/
def topoWiring (p : BitVec 5) : BitVec 3 × Bool := (p.extractLsb' 1 3, p.getLsbD 0)

/-- One channel bit: A = 0, B = 1 (00_scope.md rule R10). -/
def channelBit : Channel → Bool
  | .a => false
  | .b => true

/-- The table of pins 0 to 15, as printed in rule R101. -/
def topoTableLow : List (SliceIx × Channel) :=
  [ (0, .a), (0, .b), (1, .a), (1, .b), (2, .a), (2, .b), (3, .a), (3, .b),
    (4, .a), (4, .b), (5, .a), (5, .b), (6, .a), (6, .b), (7, .a), (7, .b) ]

/-- The table of pins 16 to 29, as printed in rule R101. -/
def topoTableHigh : List (SliceIx × Channel) :=
  [ (0, .a), (0, .b), (1, .a), (1, .b), (2, .a), (2, .b), (3, .a), (3, .b),
    (4, .a), (4, .b), (5, .a), (5, .b), (6, .a), (6, .b) ]

/-- The thirty rows of rule R101, pin 0 first. -/
def topoTable : List (SliceIx × Channel) := topoTableLow ++ topoTableHigh

end Sys2Proof.Machine
end

