-- ==== Sys2Proof/Machine/Controller.lean ====
section
/-! DEFINITION. The controller family: the shared attribute updates and call sequences (42_controller_ops.md rules R141
and R142; ApplyEnable is in Flags.lean) and the meaning of each of the five commands (R144 to R148). -/

namespace Sys2Proof.Machine

open Sys2Proof

/-- `c.pin <- p` and `(c.slice, c.channel) <- Topo(p)`, always together (10_state.md rules R22 to R24). -/
def Controller.bind (c : Controller) (p : Pin) : Controller :=
  { c with pin := p, slice := (topo p).1, channel := (topo p).2 }

/-- `c.frequencyHz <- f` and `(c.clockDivider, c.wrap) <- FreqConv(S, f)`, always together (R25 to R27). -/
def Controller.retune (c : Controller) (cfg : Config) (f : Freq) : Controller :=
  { c with
    frequencyHz := f
    clockDivider := (freqConv cfg.S f.toNat).1
    wrap := BitVec.ofNat 16 (freqConv cfg.S f.toNat).2 }

/-- The attributes CONSTRUCT gives an instance (R144): duty 0 and disabled. -/
def Controller.fresh (cfg : Config) (p : Pin) (f : Freq) : Controller where
  pin := p
  slice := (topo p).1
  channel := (topo p).2
  frequencyHz := f
  clockDivider := (freqConv cfg.S f.toNat).1
  wrap := BitVec.ofNat 16 (freqConv cfg.S f.toNat).2
  dutyCyclePercent := 0#7
  enabled := enabledAfter .construct false

/-- `BindPin(c)` (R141). -/
def Controller.bindPin (c : Controller) : List Call := [.gpioInit c.pin, .gpioSetFunctionPwm c.pin]

/-- The level an instance programs (R125, R142). -/
def Controller.level (c : Controller) : Ticks := Sys2Proof.Machine.level c.wrap c.dutyCyclePercent

/-- `SetLevel(c.slice, c.channel, Level(c.wrap, c.dutyCyclePercent))` (R142, R147). -/
def Controller.programLevel (c : Controller) : List Call := [.setLevel c.slice c.channel c.level]

/-- `ProgramTiming(c)` (R142): divider, then period, then level. -/
def Controller.programTiming (c : Controller) : List Call :=
  [.setClkDiv c.slice c.clockDivider, .setPeriod c.slice c.wrap] ++ c.programLevel

/-- What SETGPIO does to the OLD slice and pin (R145). -/
def Controller.release (c : Controller) : List Call := [.setSliceEnabled c.slice false, .gpioDeinit c.pin]

/-- CONSTRUCT pin, freq (R144). -/
def execConstruct (pin : Int) (freq : Freq) (s : State) : Host.Outcome State Fault Refusal :=
  s.onUnconstructed (.construct pin freq)
    (match pinOperand pin with
    | none => .next (s.takeFault .invalidPin (.operand pin))
    | some p =>
      let c := Controller.fresh s.config p freq
      .next (s.complete c (c.bindPin ++ c.programTiming ++ c.applyEnable)))

/-- SETGPIO pin (R145). The stored divider and wrap are reused; the frequency conversion is not run again. -/
def execSetGpio (pin : Int) (s : State) : Host.Outcome State Fault Refusal :=
  s.onConstructed (.setGpio pin) fun old =>
    match pinOperand pin with
    | none => .next (s.takeFault .invalidPin (.operand pin))
    | some p =>
      let c := { old.bind p with enabled := enabledAfter .setGpio old.enabled }
      .next (s.complete c (old.release ++ c.bindPin ++ c.programTiming ++ c.applyEnable))

/-- SETFREQ freq (R146). No value of the frequency faults. -/
def execSetFreq (freq : Freq) (s : State) : Host.Outcome State Fault Refusal :=
  s.onConstructed (.setFreq freq) fun old =>
    let c := { old.retune s.config freq with enabled := enabledAfter .setFreq old.enabled }
    .next (s.complete c (c.programTiming ++ c.applyEnable))

/-- ON duty (R147). Divider and period are not rewritten. -/
def execOn (duty : Int) (s : State) : Host.Outcome State Fault Refusal :=
  s.onConstructed (.on duty) fun old =>
    match dutyOperand duty with
    | none => .next (s.takeFault .invalidDuty (.operand duty))
    | some d =>
      let c := { old with dutyCyclePercent := d, enabled := enabledAfter .on old.enabled }
      .next (s.complete c (c.programLevel ++ c.applyEnable))

/-- OFF (R148). The duty and the level register keep their values. -/
def execOff (s : State) : Host.Outcome State Fault Refusal :=
  s.onConstructed .off fun old =>
    let c := { old with enabled := enabledAfter .off old.enabled }
    .next (s.complete c c.applyEnable)

end Sys2Proof.Machine
end

