-- ==== Sys2Proof/Machine/Dispatch.lean ====
section
/-! DEFINITION. The meaning of each command, one arm per row of spec/opcode_table.json. -/

namespace Sys2Proof.Machine

open Sys2Proof

def exec (i : Instr) (s : State) : Host.Outcome State Fault Refusal :=
  match i with
  | .construct pin freq => Sys2Proof.Machine.execConstruct pin freq s
  | .setGpio pin => Sys2Proof.Machine.execSetGpio pin s
  | .setFreq freq => Sys2Proof.Machine.execSetFreq freq s
  | .on duty => Sys2Proof.Machine.execOn duty s
  | .off => Sys2Proof.Machine.execOff s

end Sys2Proof.Machine
end

