-- ==== Sys2Proof/Machine/Fetch.lean ====
section
/-! DEFINITION. Taking the host's next input: reset, or a command word sampled once and decoded from that sample
(20_memory.md rule R68, 42_controller_ops.md rule R140 stages 0 and 1). The block fetches nothing by itself
(10_state.md rule R36). -/

namespace Sys2Proof.Machine

open Sys2Proof

/-- What the next input amounts to. -/
inductive Fetched where
  /-- the host presents nothing (log 7) -/
  | nothing
  /-- reset was asserted; the state it leaves (R210) -/
  | reset (after : State)
  /-- a command to a halted system (60_exceptions.md rule R188) -/
  | halted
  /-- a port number that names no port (70_reset_and_hazards.md rule R225; log 8) -/
  | noPort
  /-- a reserved word; the state after IllegalCommand (60 R183) -/
  | illegal (after : State)
  /-- a command, with the word taken off the host's list and its port selected -/
  | run (i : Instr) (at_ : State)
  deriving DecidableEq, Repr

/-- The state in which a command executes: its port selected, the input consumed (30_encoding.md rule R87; log 4). -/
def State.present (s : State) (k : Nat) (rest : List HostInput) : State := { s with port := k, inputs := rest }

/-- The host's next input. A halted system does not decode the word (R188); reset works there too (R210). -/
def fetch (s : State) : Fetched :=
  match s.inputs with
  | [] => .nothing
  | .reset :: rest => .reset (s.assertReset rest)
  | .command k w :: rest =>
    match s.fault with
    | some _ => .halted
    | none =>
      if k < s.inst.length then
        match decode w with
        | .command i => .run i (s.present k rest)
        | .reserved _ => .illegal ((s.present k rest).takeFault .illegalCommand (.word w))
      else .noPort

/-- The input list with one more command in front, presented at port 0, which every system has (R8). -/
def commandFirst (inputs : List HostInput) (nbits w : Nat) : List HostInput :=
  .command 0 (BitVec.ofNat 48 (w % 2 ^ nbits)) :: inputs

end Sys2Proof.Machine
end

