-- ==== Sys2Proof/Machine/Step.lean ====
section
/-! DEFINITION. One step of the system: the host's next input, taken to its end (42_controller_ops.md rule R140). -/

namespace Sys2Proof.Machine

open Sys2Proof

/-- One step. Entering a fault is a next state (60_exceptions.md rule R187); a command to a halted system is a
stop (R188). -/
def step (s : State) : Host.Outcome State Fault Refusal :=
  match fetch s with
  | .nothing => .refused .noCommand
  | .reset after => .next after
  | .halted => .fault .halted
  | .noPort => .refused .noSuchPort
  | .illegal after => .next after
  | .run i at_ => exec i at_

/-- The host presents the word next, at port 0 (log 4). -/
def State.withFetchWord (s : State) (nbits w : Nat) : State := { s with inputs := commandFirst s.inputs nbits w }

end Sys2Proof.Machine
end

