-- ==== Sys2Proof/Machine/Observe.lean ====
section
/-! DEFINITION. What can be observed of the image (00_scope.md rule R18): the pin drive (10_state.md rule R43) and the
three facts the source states of a waveform. -/

namespace Sys2Proof.Machine

open Sys2Proof

/-- What a pin is driven with (R43). `unspecified` is "a value the model knows nothing of": no level, and two
unspecified observations need not agree (log 11). -/
inductive PinDrive where
  | unspecified
  | low
  | high
  /-- the waveform the peripheral makes of `DIV[s]`, `TOP[s]` and `CC[s][ch]` -/
  | pwm (s : SliceIx) (ch : Channel)
  deriving DecidableEq, Repr

/-- `PinDrive(p)` (R43), specified between commands only (70_reset_and_hazards.md rule R219). -/
def Image.pinDrive (im : Image) (p : Pin) : PinDrive :=
  match im.func p with
  | none => .unspecified
  | some .none => .unspecified
  | some .sio =>
    match im.out p with
    | none => .unspecified
    | some false => .low
    | some true => .high
  | some .pwm =>
    match im.en (topo p).1 with
    | some true => .pwm (topo p).1 (topo p).2
    | _ => .unspecified

/-- What the source says of a waveform's high time (R43). -/
inductive PwmShape where
  /-- a register is unwritten, or the level exceeds the period (93_implementation_defined.md U4, U7; log 22) -/
  | unspecified
  | alwaysLow
  | alwaysHigh
  /-- the duty cycle is ABOUT this fraction, `CC / TOP` -/
  | about (fraction : Rat)
  deriving DecidableEq, Repr

/-- The shape of `Pwm(s, ch)` (R43): level 0 is always-low, level = wrap is always-high. -/
def Image.pwmShape (im : Image) (s : SliceIx) (ch : Channel) : PwmShape :=
  match im.top s, im.cc s ch with
  | some w, some l =>
    if l = 0#16 then .alwaysLow
    else if l = w then .alwaysHigh
    else if l.toNat < w.toNat then .about ((l.toNat : Rat) / (w.toNat : Rat))
    else .unspecified
  | _, _ => .unspecified

end Sys2Proof.Machine
end

