-- ==== Sys2Proof/Safety.lean ====
section
/-! DEFINITION. The terms claims are stated in: the source's invariants (10_state.md rules R30 to R33), exclusive
ownership of a slice (R46), agreement of image and trace (20_memory.md rule R69), what the fault register and the
responses may hold (60_exceptions.md rule R180, 30_encoding.md rule R88), and runs (70_reset_and_hazards.md rule
R224). A safe run is one in which no command faults. -/

namespace Sys2Proof.Machine

open Sys2Proof

/-- Instance `k` is constructed and holds the attributes `c` (R21). -/
abbrev State.Holds (s : State) (k : Nat) (c : Controller) : Prop := s.inst[k]? = some (some c)

/-- No fault is recorded: the system executes commands (R188). -/
abbrev State.Running (s : State) : Prop := s.fault = none

/-- A state in which the instance at the port is constructed, holds `c`, and no fault is recorded. -/
abbrev State.Ready (s : State) (c : Controller) : Prop := s.Running ∧ s.Holds s.port c

/-- Invariant I1 (R30). -/
abbrev Controller.TopologyHolds (c : Controller) : Prop := (c.slice, c.channel) = topo c.pin

/-- Invariant I2 (R31). -/
abbrev Controller.TimingHolds (c : Controller) (S : Nat) : Prop :=
  (c.clockDivider, c.wrap.toNat) = freqConv S c.frequencyHz.toNat

/-- I1, I2 and the legal range of the duty (R28): what always holds of a controller's own attributes. -/
abbrev Controller.Wf (c : Controller) (S : Nat) : Prop :=
  c.TopologyHolds ∧ c.TimingHolds S ∧ c.dutyCyclePercent.toNat ≤ 100

/-- Every constructed controller is well formed, under a legal clock rate (R5). -/
def State.AttributesWf (s : State) : Prop :=
  s.config.Wf ∧ ∀ k c, s.Holds k c → c.Wf s.config.S

/-- `Exclusive(k)` (R46): no other constructed instance is bound to instance k's slice. -/
def State.Exclusive (s : State) (k : Nat) : Prop :=
  ∀ c, s.Holds k c → ∀ j d, j ≠ k → s.Holds j d → d.slice ≠ c.slice

/-- Invariant I3 (R32): the slice's registers hold the controller's divider, wrap and level. -/
def Controller.TimingIn (c : Controller) (im : Image) : Prop :=
  im.cc c.slice c.channel = some c.level ∧ im.div c.slice = some c.clockDivider ∧ im.top c.slice = some c.wrap

/-- Invariant I4 in image terms (R33). -/
def Controller.OutputIn (c : Controller) (im : Image) : Prop :=
  if c.enabled then im.en c.slice = some true ∧ im.func c.pin = some .pwm
  else im.en c.slice = some false ∧ im.func c.pin = some .sio ∧ im.out c.pin = some false

/-- I3 and I4 together: the image is as the controller left it. -/
def Controller.AgreesWith (c : Controller) (im : Image) : Prop := c.TimingIn im ∧ c.OutputIn im

/-- Image and trace agree, and every call of the trace was made by an instance that exists (R69). -/
def State.TraceAgrees (s : State) : Prop :=
  s.image = Image.replay s.trace ∧ ∀ e ∈ s.trace, e.1 < s.inst.length

/-- The responses are one OK per completed command, and FAULT last exactly when a fault is recorded (R88, R187). -/
def State.AnswersAgree (s : State) : Prop :=
  ∃ n, s.responses = List.replicate n .ok ++ (s.fault.map (fun r => Response.fault r.cause)).toList

/-- What a fault record can hold in a system of `n` instances (R180): an operand of field A outside the legal range for
codes 1 and 2, a reserved word for code 3, a word that decodes for code 4. -/
def FaultRecord.Wf (r : FaultRecord) (n : Nat) : Prop :=
  r.k < n ∧
  match r.cause, r.info with
  | .invalidPin, .operand v => -128 ≤ v ∧ v ≤ 127 ∧ (v < 0 ∨ 29 < v)
  | .invalidDuty, .operand v => -128 ≤ v ∧ v ≤ 127 ∧ (v < 0 ∨ 100 < v)
  | .illegalCommand, .word w => ∃ why, decode w = .reserved why
  | .sequenceError, .word w => ∃ i, decode w = .command i
  | _, _ => False

/-- The fault register is empty or holds such a record. -/
def State.FaultWf (s : State) : Prop := ∀ r, s.fault = some r → r.Wf s.inst.length

/-- What no command changes whatever it is: the configuration, the number of instances, the other instances, the
host's list and the port; and the trace and the responses only grow. -/
structure State.SameOutside (s t : State) : Prop where
  config : t.config = s.config
  count : t.inst.length = s.inst.length
  others : ∀ k, k ≠ s.port → t.inst[k]? = s.inst[k]?
  inputs : t.inputs = s.inputs
  port : t.port = s.port
  trace : s.trace <+: t.trace
  responses : ∃ r, t.responses = s.responses ++ [r]

/-- What a fault leaves alone: attributes, image and trace (60_exceptions.md rule R186). -/
structure State.SameState (s t : State) : Prop where
  config : t.config = s.config
  inst : t.inst = s.inst
  image : t.image = s.image
  trace : t.trace = s.trace

/-- The image registers of every slice, channel and pin outside the given ones are unchanged. -/
structure Image.SameExcept (im im' : Image) (slices : List SliceIx) (levels : List (SliceIx × Channel))
    (enables : List SliceIx) (funcs outs : List Pin) : Prop where
  div : ∀ s, s ∉ slices → im'.div s = im.div s
  top : ∀ s, s ∉ slices → im'.top s = im.top s
  cc : ∀ s ch, (s, ch) ∉ levels → im'.cc s ch = im.cc s ch
  en : ∀ s, s ∉ enables → im'.en s = im.en s
  func : ∀ p, p ∉ funcs → im'.func p = im.func p
  out : ∀ p, p ∉ outs → im'.out p = im.out p

/-- Any number of steps (R224). -/
inductive State.Reaches : State → State → Prop where
  | refl (s : State) : State.Reaches s s
  | head {s t u : State} : step s = .next t → State.Reaches t u → State.Reaches s u

/-- Every command the host will present names a port that exists (R225). -/
def State.PortsExist (s : State) : Prop := ∀ k w, .command k w ∈ s.inputs → k < s.inst.length

/-- The run is over: every input executed and no fault, or a fault recorded (R224). -/
def State.Over (s : State) : Prop := (s.inputs = [] ∧ s.fault = none) ∨ s.fault ≠ none

end Sys2Proof.Machine
end

