-- ==== Sys2Proof/Certificates/Slice0/Obligations.lean ====
section
/-! DEFINITION. The statements for the provers, in the terms of Safety.lean. Each docstring names the rule of spec/ it
formalises. A state `s` with `s.Ready c` is not halted and its port's instance holds the attributes `c`; the port is
set by the step that presents the command. -/

open Sys2Proof Sys2Proof.Machine

/-! ### The pure functions -/

/-- 40_topology.md R100, R101: the formula, the source's two testable properties, and the printed table. -/
def Obligations.TopologyFollowsFormulasAndTable : Prop :=
  ∀ p : Pin,
    (topo p).1.val = p.val / 2 % 8 ∧
    ((topo p).2 = .a ↔ p.val % 2 = 0) ∧
    (p.val ≤ 15 → (topo p).1.val = p.val / 2) ∧
    (16 ≤ p.val → (topo p).1.val = (p.val - 16) / 2) ∧
    topoTable.length = 30 ∧
    topoTable[p.val]? = some (topo p)

/-- 41_frequency_conversion.md R117: rounding half away from zero as an integer division.
Rests on the spec's own decision D13 (log 17). -/
def Obligations.RoundHalfAwayIsIntegerDivision : Prop :=
  ∀ a b : Nat, 0 < b → roundHA ((a : Rat) / (b : Rat)) = (2 * a + b) / (2 * b)

/-- 41_frequency_conversion.md R122: both results are in range, so the wrap fits its 16-bit register. -/
def Obligations.FreqConvStaysInRange : Prop :=
  ∀ S f : Nat,
    1 ≤ (freqConv S f).1 ∧ (freqConv S f).1 ≤ 255 ∧
    2 ≤ (freqConv S f).2 ∧ (freqConv S f).2 ≤ 65535 ∧
    (BitVec.ofNat 16 (freqConv S f).2).toNat = (freqConv S f).2

/-- 41_frequency_conversion.md R116, R119: the value at frequency zero and the closed form of the three bands.
Rests on the spec's own decisions D12, D13, D14 (log 17). -/
def Obligations.FreqConvHasTheClosedForm : Prop :=
  ∀ S f : Nat, 1 ≤ S →
    freqConv S 0 = (255, 65535) ∧
    (1 ≤ f →
      (16711425 * f ≤ S → freqConv S f = (255, 65535)) ∧
      (65535 * f ≤ S → S ≤ 16711425 * f → freqConv S f = ((S : Rat) / (65535 * (f : Rat)), 65535)) ∧
      (S < 65535 * f → ∀ w, w = max 2 (min 65535 ((2 * S + f) / (2 * f))) →
        freqConv S f = (max 1 ((S : Rat) / ((f : Rat) * (w : Rat))), w)))

/-- 41_frequency_conversion.md R123: in band M the achieved frequency is the requested one.
Rests on the spec's own decision D12 (log 17). -/
def Obligations.BandMAchievesTheRequest : Prop :=
  ∀ S f : Nat, 1 ≤ f → 65535 * f ≤ S → S ≤ 16711425 * f →
    achievedHz S (freqConv S f).1 (freqConv S f).2 = (f : Rat)

/-- 41_frequency_conversion.md R123: in band H (with the period not below its floor) the achieved frequency is the
requested one when the rounded quotient `w` is not above `S / f`; otherwise the divider is 1 and the relative error
is `(w - S / f) / w`, at most `1 / (2 w)`.
Rests on the spec's own decisions D12, D13 (log 17). -/
def Obligations.BandHErrorIsBounded : Prop :=
  ∀ S f w : Nat, 1 ≤ f → S < 65535 * f → 3 * f ≤ 2 * S → w = (2 * S + f) / (2 * f) →
    (freqConv S f).2 = w ∧
    (w * f ≤ S → achievedHz S (freqConv S f).1 (freqConv S f).2 = (f : Rat)) ∧
    (S < w * f →
      (freqConv S f).1 = 1 ∧
      ((f : Rat) - achievedHz S (freqConv S f).1 (freqConv S f).2) / (f : Rat)
        = ((w : Rat) - (S : Rat) / (f : Rat)) / (w : Rat) ∧
      ((w : Rat) - (S : Rat) / (f : Rat)) / (w : Rat) ≤ 1 / (2 * (w : Rat)))

/-- 41_frequency_conversion.md R123 at the reference clock: below 1% from 8 Hz up, and 2,576,789 Hz is the lowest
frequency above that at which the error reaches 1%.
Rests on the spec's own decisions D12, D13 (log 17). -/
def Obligations.OnePercentAccuracyAtTheReferenceClock : Prop :=
  (∀ f : Nat, 8 ≤ f → f ≤ 2576788 →
    |(f : Rat) - achievedHz 125000000 (freqConv 125000000 f).1 (freqConv 125000000 f).2| < (f : Rat) / 100) ∧
  (2576789 : Rat) / 100 ≤
    |2576789 - achievedHz 125000000 (freqConv 125000000 2576789).1 (freqConv 125000000 2576789).2|

/-- 41_frequency_conversion.md R125: the level is the rounded exact quotient.
Rests on the spec's own decision D13 (log 17). -/
def Obligations.LevelIsTheRoundedQuotient : Prop :=
  ∀ w d : Nat, levelNat w d = roundHA (((w * d : Nat) : Rat) / 100)

/-- 41_frequency_conversion.md R126, for the integers and for the 16-bit register.
Rests on the spec's own decision D13 (log 17). -/
def Obligations.LevelIsMonotoneAndBounded : Prop :=
  ∀ w d : Nat, 2 ≤ w → w ≤ 65535 → d ≤ 100 →
    levelNat w 0 = 0 ∧ levelNat w 100 = w ∧ levelNat w 50 = (w + 1) / 2 ∧ levelNat w d ≤ w ∧
    (∀ d', d ≤ d' → levelNat w d ≤ levelNat w d') ∧
    (∀ w', w ≤ w' → levelNat w d ≤ levelNat w' d) ∧
    (level (BitVec.ofNat 16 w) (BitVec.ofNat 7 d)).toNat = levelNat w d

/-! ### Encoding -/

/-- 30_encoding.md R80, R83, R85: a well-formed command is read back from its word.
Rests on the spec's own decisions D2 to D6 (log 17). -/
def Obligations.DecodeOfEncodeIsTheCommand : Prop :=
  ∀ i : Instr, i.wellFormed = true → decode (encode i) = .command i

/-- 30_encoding.md R85: each word has one meaning; the command decoded from it is well formed and encodes to it.
Rests on the spec's own decisions D2 to D6 (log 17). -/
def Obligations.EncodeOfDecodeIsTheWord : Prop :=
  ∀ (w : CommandWord) (i : Instr), decode w = .command i → encode i = w ∧ i.wellFormed = true

/-- 30_encoding.md R82, R86: a word is the command of a row exactly when `(w AND mask) = match`, no word matches two
rows, and a word is reserved exactly when it matches none.
Rests on the spec's own decisions D2, D3, D6, D7 (log 17). -/
def Obligations.DecodeFollowsTheOpcodeTable : Prop :=
  ∀ w : CommandWord,
    (∀ r ∈ opcodeTable, r.covers w = true ↔ ∃ i, decode w = .command i ∧ i.mnemonic = r.mnemonic) ∧
    (∀ r ∈ opcodeTable, ∀ r' ∈ opcodeTable, r.covers w = true → r'.covers w = true → r = r') ∧
    ((∃ why, decode w = .reserved why) ↔ ∀ r ∈ opcodeTable, r.covers w = false)

/-- 30_encoding.md R89: the example words of the assembly table, and 0 and 0x06 reserved (R81).
Rests on the spec's own decisions D2 to D6 (log 17). -/
def Obligations.ExampleWordsDecode : Prop :=
  decode 0x010F00000032#48 = .command (.construct 15 50#32) ∧
  decode 0x01FF000003E8#48 = .command (.construct (-1) 1000#32) ∧
  decode 0x021100000000#48 = .command (.setGpio 17) ∧
  decode 0x030000004E20#48 = .command (.setFreq 20000#32) ∧
  decode 0x041900000000#48 = .command (.on 25) ∧
  decode 0x050000000000#48 = .command .off ∧
  decode 0x000000000000#48 = .reserved .unassignedOp ∧
  decode 0x060000000000#48 = .reserved .unassignedOp

/-! ### The step -/

/-- 42_controller_ops.md R140: in a running system a word presented at an existing port is executed as the command it
decodes to, with that port selected and the input consumed (model's choice of how the host's inputs are held: log 4).
Rests on the spec's own decisions D2, D21, D23 (log 17). -/
def Obligations.StepRunsTheDecodedCommand : Prop :=
  ∀ (s : State) (k : Nat) (w : CommandWord) (rest : List HostInput) (i : Instr),
    s.inputs = .command k w :: rest → s.fault = none → k < s.inst.length → decode w = .command i →
    step s = exec i { s with port := k, inputs := rest }

/-- 60_exceptions.md R183, R187: a reserved word takes IllegalCommand, recording the word.
Rests on the spec's own decisions D7, D9, D10 (log 17). -/
def Obligations.ReservedWordTakesIllegalCommand : Prop :=
  ∀ (s : State) (k : Nat) (w : CommandWord) (rest : List HostInput) (why : Reserved),
    s.inputs = .command k w :: rest → s.fault = none → k < s.inst.length → decode w = .reserved why →
    step s = .next { s with
      port := k
      inputs := rest
      fault := some ⟨.illegalCommand, k, .word w⟩
      responses := s.responses ++ [.fault .illegalCommand] }

/-- 60_exceptions.md R188: a command presented to a halted system has no step, whatever the word and the port. The two
refusals (log 7, log 8) are where nothing can be executed: no input, or a number that names no port.
Rests on the spec's own decision D9 (log 17). -/
def Obligations.WhereThereIsNoStep : Prop :=
  ∀ (s : State) (k : Nat) (w : CommandWord) (rest : List HostInput),
    (∀ r, s.fault = some r → s.inputs = .command k w :: rest → step s = .fault .halted) ∧
    (∀ r i, s.fault = some r → exec i s = .fault .halted) ∧
    (s.inputs = [] → step s = .refused .noCommand) ∧
    (s.fault = none → s.inputs = .command k w :: rest → s.inst.length ≤ k → step s = .refused .noSuchPort)

/-- 10_state.md R45: what reset leaves, for any configuration and number of instances, and `State.reset` is one.
Rests on the spec's own decision D22 (log 17). -/
def Obligations.ResetStateHoldsNothing : Prop :=
  (∀ (cfg : Config) (n : Nat),
    (State.resetOf cfg n).inst.length = n ∧
    (∀ k, k < n → (State.resetOf cfg n).inst[k]? = some none) ∧
    (State.resetOf cfg n).fault = none ∧
    (∀ sl, (State.resetOf cfg n).image.div sl = none ∧ (State.resetOf cfg n).image.top sl = none ∧
      (State.resetOf cfg n).image.en sl = none ∧ ∀ ch, (State.resetOf cfg n).image.cc sl ch = none) ∧
    (∀ p, (State.resetOf cfg n).image.func p = none ∧ (State.resetOf cfg n).image.out p = none ∧
      (State.resetOf cfg n).image.pinDrive p = .unspecified)) ∧
  ∃ cfg n, State.reset = State.resetOf cfg n ∧ 1 ≤ n ∧ cfg.S = 125000000

/-- 70_reset_and_hazards.md R210: asserting reset puts the whole state into the reset state, halted or not; the
configuration, the number of instances and what the host presents next are kept (log 5).
Rests on the spec's own decision D22 (log 17). -/
def Obligations.ResetInputEntersTheResetState : Prop :=
  ∀ (s : State) (rest : List HostInput), s.inputs = .reset :: rest →
    step s = .next { State.resetOf s.config s.inst.length with inputs := rest }

/-- 60_exceptions.md R189: no command clears the fault register or writes it a second time; the only way out of the
halted state is reset, which also discards every controller. -/
def Obligations.ResetIsTheOnlyWayOutOfTheHalt : Prop :=
  ∀ (s : State) (r : FaultRecord), s.fault = some r →
    (∀ i t, exec i s ≠ .next t) ∧
    ∀ t, step s = .next t →
      (∃ rest, s.inputs = .reset :: rest) ∧ t.fault = none ∧ ∀ k c, ¬ t.Holds k c

/-! ### The commands: where they complete, and in which state -/

/-- 42_controller_ops.md R144.
Rests on the spec's own decisions D15, D17, D18 (log 17). -/
def Obligations.ConstructCompletes : Prop :=
  ∀ (s : State) (p : Pin) (f : Freq) (sl : SliceIx) (ch : Channel) (d : DivT) (w : Nat) (calls : List Call),
    s.Running → s.inst[s.port]? = some none → topo p = (sl, ch) → freqConv s.config.S f.toNat = (d, w) →
    calls = [ .gpioInit p, .gpioSetFunctionPwm p,
      .setClkDiv sl d, .setPeriod sl (BitVec.ofNat 16 w), .setLevel sl ch 0#16,
      .setSliceEnabled sl false, .gpioInit p, .gpioSetOutput p false ] →
    exec (.construct p.val f) s = .next { s with
      inst := s.inst.set s.port (some ⟨p, sl, ch, f, d, BitVec.ofNat 16 w, 0#7, false⟩)
      image := calls.foldl Image.apply s.image
      trace := s.trace ++ calls.map (fun call => (s.port, call))
      responses := s.responses ++ [.ok] }

/-- 42_controller_ops.md R145: nine calls when enabled, ten when disabled.
Rests on the spec's own decisions D17, D18, D19 (log 17). -/
def Obligations.SetGpioCompletes : Prop :=
  ∀ (s : State) (c : Controller) (p : Pin) (sl : SliceIx) (ch : Channel) (calls : List Call),
    s.Ready c → topo p = (sl, ch) →
    calls = [ .setSliceEnabled c.slice false, .gpioDeinit c.pin, .gpioInit p, .gpioSetFunctionPwm p,
        .setClkDiv sl c.clockDivider, .setPeriod sl c.wrap,
        .setLevel sl ch (BitVec.ofNat 16 ((c.wrap.toNat * c.dutyCyclePercent.toNat + 50) / 100)) ] ++
      (if c.enabled then [.gpioSetFunctionPwm p, .setSliceEnabled sl true]
        else [.setSliceEnabled sl false, .gpioInit p, .gpioSetOutput p false]) →
    exec (.setGpio p.val) s = .next { s with
      inst := s.inst.set s.port (some { c with pin := p, slice := sl, channel := ch })
      image := calls.foldl Image.apply s.image
      trace := s.trace ++ calls.map (fun call => (s.port, call))
      responses := s.responses ++ [.ok] }

/-- 42_controller_ops.md R146: five calls when enabled, six when disabled.
Rests on the spec's own decision D18 (log 17). -/
def Obligations.SetFreqCompletes : Prop :=
  ∀ (s : State) (c : Controller) (f : Freq) (d : DivT) (w : Nat) (calls : List Call),
    s.Ready c → freqConv s.config.S f.toNat = (d, w) →
    calls = [ .setClkDiv c.slice d, .setPeriod c.slice (BitVec.ofNat 16 w),
        .setLevel c.slice c.channel (BitVec.ofNat 16 ((w * c.dutyCyclePercent.toNat + 50) / 100)) ] ++
      (if c.enabled then [.gpioSetFunctionPwm c.pin, .setSliceEnabled c.slice true]
        else [.setSliceEnabled c.slice false, .gpioInit c.pin, .gpioSetOutput c.pin false]) →
    exec (.setFreq f) s = .next { s with
      inst := s.inst.set s.port (some { c with
        frequencyHz := f, clockDivider := d, wrap := BitVec.ofNat 16 w })
      image := calls.foldl Image.apply s.image
      trace := s.trace ++ calls.map (fun call => (s.port, call))
      responses := s.responses ++ [.ok] }

/-- 42_controller_ops.md R147.
Rests on the spec's own decision D18 (log 17). -/
def Obligations.OnCompletes : Prop :=
  ∀ (s : State) (c : Controller) (d : Nat) (calls : List Call),
    s.Ready c → d ≤ 100 →
    calls = [ .setLevel c.slice c.channel (BitVec.ofNat 16 ((c.wrap.toNat * d + 50) / 100)),
      .gpioSetFunctionPwm c.pin, .setSliceEnabled c.slice true ] →
    exec (.on d) s = .next { s with
      inst := s.inst.set s.port (some { c with dutyCyclePercent := BitVec.ofNat 7 d, enabled := true })
      image := calls.foldl Image.apply s.image
      trace := s.trace ++ calls.map (fun call => (s.port, call))
      responses := s.responses ++ [.ok] }

/-- 42_controller_ops.md R148.
Rests on the spec's own decision D18 (log 17). -/
def Obligations.OffCompletes : Prop :=
  ∀ (s : State) (c : Controller) (calls : List Call),
    s.Ready c →
    calls = [.setSliceEnabled c.slice false, .gpioInit c.pin, .gpioSetOutput c.pin false] →
    exec .off s = .next { s with
      inst := s.inst.set s.port (some { c with enabled := false })
      image := calls.foldl Image.apply s.image
      trace := s.trace ++ calls.map (fun call => (s.port, call))
      responses := s.responses ++ [.ok] }

/-! ### Faults -/

/-- 60_exceptions.md R181: CONSTRUCT and SETGPIO refuse a pin below 0 or above 29 before any attribute is written and
before any call; pins 0 and 29 are accepted, -1 and 30 are not. -/
def Obligations.PinOutOfRangeFaults : Prop :=
  ∀ (s : State) (p : Int) (f : Freq), s.Running →
    (s.inst[s.port]? = some none →
      ((p < 0 ∨ 29 < p) → ∃ t, exec (.construct p f) s = .next t ∧
        t.fault.map FaultRecord.cause = some .invalidPin ∧ s.SameState t) ∧
      (0 ≤ p → p ≤ 29 → ∃ t, exec (.construct p f) s = .next t ∧ t.fault = none)) ∧
    (∀ c, s.Holds s.port c →
      ((p < 0 ∨ 29 < p) → ∃ t, exec (.setGpio p) s = .next t ∧
        t.fault.map FaultRecord.cause = some .invalidPin ∧ s.SameState t) ∧
      (0 ≤ p → p ≤ 29 → ∃ t, exec (.setGpio p) s = .next t ∧ t.fault = none))

/-- 60_exceptions.md R182: ON refuses a duty below 0 or above 100 before any attribute is written and before any call;
0 and 100 are accepted, -1 and 101 are not. -/
def Obligations.DutyOutOfRangeFaults : Prop :=
  ∀ (s : State) (c : Controller) (d : Int), s.Ready c →
    ((d < 0 ∨ 100 < d) → ∃ t, exec (.on d) s = .next t ∧
      t.fault.map FaultRecord.cause = some .invalidDuty ∧ s.SameState t) ∧
    (0 ≤ d → d ≤ 100 → ∃ t, exec (.on d) s = .next t ∧ t.fault = none)

/-- 60_exceptions.md R180, R184, R187 and 30_encoding.md R88: for each cause raised by a command that decodes, the
state after fault entry in full, and the codes.
Rests on the spec's own decisions D8, D9, D10, D26 (log 17), and on two choices of the model: the word a SequenceError
records is the command's encoding (log 15, DEDUCED), and a command that no word holds, such as one with pin 1000, faults
on its operand or its lifecycle like any other (log 24, DESIGN CHOICE), so that its record may lie outside R180's
-128 to 127. -/
def Obligations.FaultEntryRecordsAndAnswers : Prop :=
  ∀ (s : State) (enter : Cause → FaultInfo → State), s.Running →
    (∀ cause info, enter cause info =
      { s with fault := some ⟨cause, s.port, info⟩, responses := s.responses ++ [.fault cause] }) →
    (s.inst[s.port]? = some none →
      (∀ p f, (p < 0 ∨ 29 < p) → exec (.construct p f) s = .next (enter .invalidPin (.operand p))) ∧
      (∀ i, i.mnemonic ≠ .construct → exec i s = .next (enter .sequenceError (.word (encode i))))) ∧
    (∀ c, s.Holds s.port c →
      (∀ p, (p < 0 ∨ 29 < p) → exec (.setGpio p) s = .next (enter .invalidPin (.operand p))) ∧
      (∀ d, (d < 0 ∨ 100 < d) → exec (.on d) s = .next (enter .invalidDuty (.operand d))) ∧
      (∀ p f, exec (.construct p f) s =
        .next (enter .sequenceError (.word (encode (.construct p f)))))) ∧
    (Cause.invalidPin.code = 1 ∧ Cause.invalidDuty.code = 2 ∧ Cause.illegalCommand.code = 3 ∧
      Cause.sequenceError.code = 4) ∧
    Response.ok.status = 0#3 ∧ ∀ cause, (Response.fault cause).status.toNat = cause.code

/-- 60_exceptions.md R190: exactly one fault is reported, the first of IllegalCommand, SequenceError,
InvalidConfiguration.
Rests on the spec's own decisions D7, D8, D11 (log 17). -/
def Obligations.FaultPriorityIsDecodeLifecycleOperand : Prop :=
  ∀ (s t : State) (k : Nat) (w : CommandWord) (rest : List HostInput),
    s.inputs = .command k w :: rest → s.Running → k < s.inst.length → step s = .next t →
    (∀ why, decode w = .reserved why → t.fault = some ⟨.illegalCommand, k, .word w⟩) ∧
    (∀ i, decode w = .command i →
      (i.mnemonic = .construct → ∀ c, s.Holds k c → t.fault = some ⟨.sequenceError, k, .word w⟩) ∧
      (i.mnemonic ≠ .construct → s.inst[k]? = some none → t.fault = some ⟨.sequenceError, k, .word w⟩)) ∧
    (∀ p f, decode w = .command (.construct p f) → s.inst[k]? = some none → (p < 0 ∨ 29 < p) →
      t.fault = some ⟨.invalidPin, k, .operand p⟩) ∧
    (∀ p c, decode w = .command (.setGpio p) → s.Holds k c → (p < 0 ∨ 29 < p) →
      t.fault = some ⟨.invalidPin, k, .operand p⟩) ∧
    (∀ d c, decode w = .command (.on d) → s.Holds k c → (d < 0 ∨ 100 < d) →
      t.fault = some ⟨.invalidDuty, k, .operand d⟩)

/-- 60_exceptions.md R186: a faulting command changes no attribute of any instance, no image register, and adds no
call to the trace. -/
def Obligations.FaultHasNoPartialEffect : Prop :=
  ∀ s t : State, s.Running → step s = .next t → t.fault ≠ none → s.SameState t

/-- 42_controller_ops.md R153: no frequency faults, and no pin or duty is clamped: it is taken exactly or aborts. -/
def Obligations.FrequencyNeverFaultsPinAndDutyNeverClamp : Prop :=
  ∀ (s : State), s.Running →
    (∀ c f, s.Holds s.port c → ∃ t, exec (.setFreq f) s = .next t ∧ t.fault = none) ∧
    (∀ p f, s.inst[s.port]? = some none → ∃ t, exec (.construct p f) s = .next t ∧
      ((t.fault = none ∧ ∃ c, t.Holds s.port c ∧ (c.pin.val : Int) = p ∧ c.frequencyHz = f) ∨
        ((p < 0 ∨ 29 < p) ∧ t.fault ≠ none))) ∧
    (∀ c p, s.Holds s.port c → ∃ t, exec (.setGpio p) s = .next t ∧
      ((t.fault = none ∧ ∃ c', t.Holds s.port c' ∧ (c'.pin.val : Int) = p) ∨
        ((p < 0 ∨ 29 < p) ∧ t.fault ≠ none))) ∧
    (∀ c d, s.Holds s.port c → ∃ t, exec (.on d) s = .next t ∧
      ((t.fault = none ∧ ∃ c', t.Holds s.port c' ∧ (c'.dutyCyclePercent.toNat : Int) = d) ∨
        ((d < 0 ∨ 100 < d) ∧ t.fault ≠ none)))

/-! ### Frames -/

/-- 42_controller_ops.md R144 with 10_state.md R35: what CONSTRUCT leaves unchanged when it answers a next state. The
slice, channel and pin written are those of its operand.
Rests on the spec's own decisions D17, D18 (log 17). -/
def Obligations.ConstructFrame : Prop :=
  ∀ (s t : State) (p : Int) (f : Freq), exec (.construct p f) s = .next t →
    s.SameOutside t ∧ (t.fault = none ∨ s.SameState t) ∧
    (∀ c, s.Holds s.port c → s.SameState t) ∧
    ∀ q : Pin, p = q.val → s.image.SameExcept t.image [(topo q).1] [topo q] [(topo q).1] [q] [q]

/-- 42_controller_ops.md R145: what SETGPIO leaves unchanged. Written are the new slice's timing and level, the enable
bits of the old and the new slice, the functions of the old and the new pin, and, when disabled, the new pin's
output.
Rests on the spec's own decisions D17, D18, D19 (log 17). -/
def Obligations.SetGpioFrame : Prop :=
  ∀ (s t : State) (p : Int), exec (.setGpio p) s = .next t →
    s.SameOutside t ∧ (t.fault = none ∨ s.SameState t) ∧
    (s.inst[s.port]? = some none → s.SameState t) ∧
    ∀ c, s.Holds s.port c →
      (∃ c', t.Holds s.port c' ∧ c'.frequencyHz = c.frequencyHz ∧ c'.clockDivider = c.clockDivider ∧
        c'.wrap = c.wrap ∧ c'.dutyCyclePercent = c.dutyCyclePercent ∧ c'.enabled = c.enabled) ∧
      ∀ q : Pin, p = q.val →
        s.image.SameExcept t.image [(topo q).1] [topo q] [c.slice, (topo q).1] [c.pin, q]
          (if c.enabled then [] else [q])

/-- 42_controller_ops.md R146: what SETFREQ leaves unchanged.
Rests on the spec's own decision D18 (log 17). -/
def Obligations.SetFreqFrame : Prop :=
  ∀ (s t : State) (f : Freq), exec (.setFreq f) s = .next t →
    s.SameOutside t ∧ (t.fault = none ∨ s.SameState t) ∧
    (s.inst[s.port]? = some none → s.SameState t) ∧
    ∀ c, s.Holds s.port c →
      (∃ c', t.Holds s.port c' ∧ c'.pin = c.pin ∧ c'.slice = c.slice ∧ c'.channel = c.channel ∧
        c'.dutyCyclePercent = c.dutyCyclePercent ∧ c'.enabled = c.enabled) ∧
      s.image.SameExcept t.image [c.slice] [(c.slice, c.channel)] [c.slice] [c.pin]
        (if c.enabled then [] else [c.pin])

/-- 42_controller_ops.md R147, R148: what ON and OFF leave unchanged. Neither writes a divider, a period or a pin
binding; ON writes one level and no output, OFF writes no level and keeps the duty.
Rests on the spec's own decision D18 (log 17). -/
def Obligations.OnAndOffFrame : Prop :=
  ∀ (s t : State) (i : Instr), ((∃ d, i = .on d) ∨ i = .off) → exec i s = .next t →
    s.SameOutside t ∧ (t.fault = none ∨ s.SameState t) ∧
    (s.inst[s.port]? = some none → s.SameState t) ∧
    ∀ c, s.Holds s.port c →
      (∃ c', t.Holds s.port c' ∧ c'.pin = c.pin ∧ c'.slice = c.slice ∧ c'.channel = c.channel ∧
        c'.frequencyHz = c.frequencyHz ∧ c'.clockDivider = c.clockDivider ∧ c'.wrap = c.wrap ∧
        (i = .off → c'.dutyCyclePercent = c.dutyCyclePercent)) ∧
      (i = .off → s.image.SameExcept t.image [] [] [c.slice] [c.pin] [c.pin]) ∧
      (i ≠ .off → s.image.SameExcept t.image [] [(c.slice, c.channel)] [c.slice] [c.pin] [])

/-- 10_state.md section 2 and 60_exceptions.md R195: what a command does at its port does not depend on the attributes
other instances hold. -/
def Obligations.OtherInstancesDoNotMatter : Prop :=
  ∀ (i : Instr) (s t : State) (others : List (Option Controller)),
    others.length = s.inst.length → others[s.port]? = s.inst[s.port]? → exec i s = .next t →
    ∃ t', exec i { s with inst := others } = .next t' ∧ t'.inst[s.port]? = t.inst[s.port]? ∧
      (∀ k, k ≠ s.port → t'.inst[k]? = others[k]?) ∧
      t'.image = t.image ∧ t'.trace = t.trace ∧ t'.fault = t.fault ∧ t'.responses = t.responses

/-- 20_memory.md R51: the block never reads the image (nor the trace): a step from a state with another image has the
same outcome in everything else. -/
def Obligations.TheImageIsNeverRead : Prop :=
  ∀ (s : State) (im : Image) (trace : List (Nat × Call)),
    (∀ t, step s = .next t → ∃ im' trace',
      step { s with image := im, trace := trace } = .next { t with image := im', trace := trace' }) ∧
    (∀ r, step s = .fault r → step { s with image := im, trace := trace } = .fault r) ∧
    (∀ r, step s = .refused r → step { s with image := im, trace := trace } = .refused r)

/-! ### The register image -/

/-- 20_memory.md R52 to R59 and R63: each call writes its one register and no other, and making it twice in a row leaves
the image as once does.
Rests on the spec's own decision D16 (log 17). -/
def Obligations.EachCallWritesOneRegister : Prop :=
  ∀ (im : Image) (s : SliceIx) (ch : Channel) (p : Pin) (d : DivT) (v : Ticks) (b : Bool),
    ((im.apply (.setClkDiv s d)).div s = some d ∧
      im.SameExcept (im.apply (.setClkDiv s d)) [s] [] [] [] [] ∧
      (im.apply (.setClkDiv s d)).top s = im.top s) ∧
    ((im.apply (.setPeriod s v)).top s = some v ∧
      im.SameExcept (im.apply (.setPeriod s v)) [s] [] [] [] [] ∧
      (im.apply (.setPeriod s v)).div s = im.div s) ∧
    ((im.apply (.setLevel s ch v)).cc s ch = some v ∧
      im.SameExcept (im.apply (.setLevel s ch v)) [] [(s, ch)] [] [] []) ∧
    ((im.apply (.setSliceEnabled s b)).en s = some b ∧
      im.SameExcept (im.apply (.setSliceEnabled s b)) [] [] [s] [] []) ∧
    ((im.apply (.gpioDeinit p)).func p = some .none ∧
      im.SameExcept (im.apply (.gpioDeinit p)) [] [] [] [p] []) ∧
    ((im.apply (.gpioInit p)).func p = some .sio ∧
      im.SameExcept (im.apply (.gpioInit p)) [] [] [] [p] []) ∧
    ((im.apply (.gpioSetFunctionPwm p)).func p = some .pwm ∧
      im.SameExcept (im.apply (.gpioSetFunctionPwm p)) [] [] [] [p] []) ∧
    ((im.apply (.gpioSetOutput p b)).out p = some b ∧
      im.SameExcept (im.apply (.gpioSetOutput p b)) [] [] [] [] [p]) ∧
    ∀ call : Call, (im.apply call).apply call = im.apply call

/-- 42_controller_ops.md R142: `ProgramTiming` makes three calls in this order and leaves the divider, the wrap and the
level in the slice's registers; the other channel's level is not touched. -/
def Obligations.ProgramTimingWritesDividerPeriodLevel : Prop :=
  ∀ (c : Controller) (im : Image) (l : Ticks), l = level c.wrap c.dutyCyclePercent →
    c.programTiming = [.setClkDiv c.slice c.clockDivider, .setPeriod c.slice c.wrap, .setLevel c.slice c.channel l] ∧
    (im.applyAll c.programTiming).div c.slice = some c.clockDivider ∧
    (im.applyAll c.programTiming).top c.slice = some c.wrap ∧
    (im.applyAll c.programTiming).cc c.slice c.channel = some l ∧
    ∀ ch, ch ≠ c.channel → (im.applyAll c.programTiming).cc c.slice ch = im.cc c.slice ch

/-- 70_reset_and_hazards.md R219: during SETFREQ on an enabled instance the image holds the new divider with the old
period, then the new period with the old level; it ends as the command leaves it.
Rests on the spec's own decisions D16, D18 (log 17). -/
def Obligations.SetFreqPassesThroughIntermediateImages : Prop :=
  ∀ (s : State) (c : Controller) (f : Freq), s.Ready c → c.enabled = true →
    ∃ t calls im₁ im₂ im₃ im₄ im₅, exec (.setFreq f) s = .next t ∧
      t.trace = s.trace ++ calls.map (fun call => (s.port, call)) ∧
      s.image.during calls = [s.image, im₁, im₂, im₃, im₄, im₅] ∧
      im₁.div c.slice = some (freqConv s.config.S f.toNat).1 ∧ im₁.top c.slice = s.image.top c.slice ∧
      im₂.top c.slice = some (BitVec.ofNat 16 (freqConv s.config.S f.toNat).2) ∧
      im₂.cc c.slice c.channel = s.image.cc c.slice c.channel ∧
      im₃.cc c.slice c.channel = some (level (BitVec.ofNat 16 (freqConv s.config.S f.toNat).2) c.dutyCyclePercent) ∧
      im₅ = t.image

/-! ### The source's properties of the commands -/

/-- 42_controller_ops.md R149: the duty round trip.
Rests on the spec's own decision D13 (log 17). -/
def Obligations.OnProgramsTheLevelOfItsDuty : Prop :=
  ∀ (s : State) (c : Controller) (d : Nat), s.Ready c → d ≤ 100 →
    ∃ t, exec (.on d) s = .next t ∧
      t.image.cc c.slice c.channel = some (BitVec.ofNat 16 (roundHA (((c.wrap.toNat * d : Nat) : Rat) / 100))) ∧
      (d = 0 → t.image.cc c.slice c.channel = some 0#16) ∧
      (d = 100 → t.image.cc c.slice c.channel = some c.wrap)

/-- 42_controller_ops.md R147 with 10_state.md R33, R43: after ON the pin carries its slice's waveform; a duty of 0 is
always low and a duty of 100 always high where the slice has the instance's period.
Rests on the spec's own decisions D18, D27 (log 17). -/
def Obligations.OnConnectsTheWaveform : Prop :=
  ∀ (s : State) (c : Controller) (d : Nat), s.Ready c → d ≤ 100 → c.TopologyHolds →
    ∃ t, exec (.on d) s = .next t ∧
      t.image.pinDrive c.pin = .pwm c.slice c.channel ∧
      (s.image.top c.slice = some c.wrap → 2 ≤ c.wrap.toNat →
        (d = 0 → t.image.pwmShape c.slice c.channel = .alwaysLow) ∧
        (d = 100 → t.image.pwmShape c.slice c.channel = .alwaysHigh))

/-- 42_controller_ops.md R150: after OFF the pin is driven low whatever the duty was.
Rests on the spec's own decisions D18, D27 (log 17). -/
def Obligations.OffDrivesThePinLow : Prop :=
  ∀ (s : State) (c : Controller), s.Ready c →
    ∃ t, exec .off s = .next t ∧ t.image.pinDrive c.pin = .low ∧ t.image.en c.slice = some false

/-- 42_controller_ops.md R151: after SETFREQ the percentage and the enable state are what they were, and the level is
that of the new wrap. -/
def Obligations.SetFreqKeepsThePercentage : Prop :=
  ∀ (s : State) (c : Controller) (f : Freq), s.Ready c →
    ∃ t c', exec (.setFreq f) s = .next t ∧ t.Holds s.port c' ∧
      c'.dutyCyclePercent = c.dutyCyclePercent ∧ c'.enabled = c.enabled ∧ c'.frequencyHz = f ∧
      (c'.clockDivider, c'.wrap.toNat) = freqConv s.config.S f.toNat ∧
      t.image.cc c.slice c.channel = some (level c'.wrap c.dutyCyclePercent)

/-- 42_controller_ops.md R145: the new pin takes over enable state and duty; the old pin is released, and the old slice,
when it is another one, is left disabled with its other registers as they were.
Rests on the spec's own decisions D18, D19, D27 (log 17). -/
def Obligations.SetGpioMovesTheOutput : Prop :=
  ∀ (s : State) (c : Controller) (p : Pin), s.Ready c →
    ∃ t, exec (.setGpio p.val) s = .next t ∧
      (c.enabled = true → t.image.pinDrive p = .pwm (topo p).1 (topo p).2) ∧
      (c.enabled = false → t.image.pinDrive p = .low) ∧
      (p ≠ c.pin → t.image.func c.pin = some .none ∧ t.image.pinDrive c.pin = .unspecified) ∧
      ((topo p).1 ≠ c.slice → t.image.en c.slice = some false ∧ t.image.div c.slice = s.image.div c.slice ∧
        t.image.top c.slice = s.image.top c.slice ∧ ∀ ch, t.image.cc c.slice ch = s.image.cc c.slice ch)

/-- 42_controller_ops.md R145 (b): SETGPIO to the pin already bound runs the whole sequence and ends in the image it
began with, when the image agrees with the instance.
Rests on the spec's own decision D34 (log 17). -/
def Obligations.SetGpioToTheSamePinRestoresTheImage : Prop :=
  ∀ (s : State) (c : Controller), s.Ready c → c.TopologyHolds → c.AgreesWith s.image →
    ∃ t, exec (.setGpio c.pin.val) s = .next t ∧ t.image = s.image ∧ t.inst = s.inst ∧
      t.trace.length = s.trace.length + (if c.enabled then 9 else 10)

/-- 70_reset_and_hazards.md R214: after CONSTRUCT the pin is driven low, the slice is disabled, and the timing registers
hold the values for the requested frequency with level 0.
Rests on the spec's own decisions D15, D18, D27 (log 17). -/
def Obligations.ConstructLeavesThePinLow : Prop :=
  ∀ (s : State) (p : Pin) (f : Freq), s.Running → s.inst[s.port]? = some none →
    ∃ t, exec (.construct p.val f) s = .next t ∧
      t.image.pinDrive p = .low ∧ t.image.en (topo p).1 = some false ∧
      t.image.div (topo p).1 = some (freqConv s.config.S f.toNat).1 ∧
      t.image.top (topo p).1 = some (BitVec.ofNat 16 (freqConv s.config.S f.toNat).2) ∧
      t.image.cc (topo p).1 (topo p).2 = some 0#16

/-- 41_frequency_conversion.md R124 and 42_controller_ops.md R146, R148: SETFREQ with the same frequency, and OFF, done
twice leave what they left once, with the same calls made again.
Rests on the spec's own decision D18 (log 17). -/
def Obligations.RepeatedSetFreqAndOffChangeNothingMore : Prop :=
  ∀ (s : State) (c : Controller) (i : Instr), s.Ready c → ((∃ f, i = .setFreq f) ∨ i = .off) →
    ∃ t u calls, exec i s = .next t ∧ exec i t = .next u ∧ u.inst = t.inst ∧ u.image = t.image ∧
      t.trace = s.trace ++ calls ∧ u.trace = t.trace ++ calls

/-- 70_reset_and_hazards.md R217 (a), (b): with two instances on one slice, SETFREQ by one overwrites the other's
divider and period, and OFF by one stops the other's output, whose attributes do not notice and which no fault
reports.
Rests on the spec's own decisions D18, D27 (log 17). -/
def Obligations.SharedSliceIsOverwrittenUndetected : Prop :=
  ∀ (s : State) (c d : Controller) (j : Nat) (f : Freq),
    s.Ready c → j ≠ s.port → s.Holds j d → d.slice = c.slice → d.pin ≠ c.pin → d.TopologyHolds →
    s.image.func d.pin = some .pwm →
    (∃ t, exec (.setFreq f) s = .next t ∧ t.fault = none ∧ t.Holds j d ∧
      t.image.div d.slice = some (freqConv s.config.S f.toNat).1 ∧
      t.image.top d.slice = some (BitVec.ofNat 16 (freqConv s.config.S f.toNat).2)) ∧
    (∃ t, exec .off s = .next t ∧ t.fault = none ∧ t.Holds j d ∧
      t.image.en d.slice = some false ∧ t.image.pinDrive d.pin = .unspecified)

/-- 10_state.md R34: the enable state machine. A completed CONSTRUCT enters Disabled, ON enters Enabled, OFF enters
Disabled, SETFREQ and SETGPIO keep the state; a fault leaves the flag; a constructed instance refuses CONSTRUCT. -/
def Obligations.EnableStateMachine : Prop :=
  ∀ (i : Instr) (s t : State), exec i s = .next t →
    (t.fault = none → ∃ c', t.Holds s.port c' ∧
      (i.mnemonic = .construct → s.inst[s.port]? = some none ∧ c'.enabled = false) ∧
      (i.mnemonic = .on → c'.enabled = true) ∧
      (i.mnemonic = .off → c'.enabled = false) ∧
      (i.mnemonic = .setFreq ∨ i.mnemonic = .setGpio → ∀ c, s.Holds s.port c → c'.enabled = c.enabled)) ∧
    (t.fault ≠ none → t.inst = s.inst)

/-! ### Invariants and whole-machine rules -/

/-- 10_state.md R30, R31 (I1, I2) with R22 to R28: every step keeps every constructed controller's slice and channel the
topology entry of its pin, its divider and wrap the conversion of its frequency, and its duty at most 100; hence the
divider and the wrap are in range. -/
def Obligations.EveryStepKeepsTheAttributesWellFormed : Prop :=
  ∀ s t : State, s.AttributesWf → step s = .next t →
    t.AttributesWf ∧
    ∀ k c, t.Holds k c → (c.slice, c.channel) = topo c.pin ∧
      (c.clockDivider, c.wrap.toNat) = freqConv t.config.S c.frequencyHz.toNat ∧
      1 ≤ c.clockDivider ∧ c.clockDivider ≤ 255 ∧ 2 ≤ c.wrap.toNat ∧ c.wrap.toNat ≤ 65535

/-- 20_memory.md R69: every step keeps the image equal to the fold of the trace over the reset image; a command adds
its calls in order, each tagged with its own instance, and a faulting command contributes none. -/
def Obligations.EveryStepKeepsImageAndTraceInAgreement : Prop :=
  ∀ s t : State, s.TraceAgrees → step s = .next t →
    t.TraceAgrees ∧
    (∀ k w rest, s.inputs = .command k w :: rest →
      ∃ calls : List Call, t.trace = s.trace ++ calls.map (fun call => (k, call)) ∧
        t.image = calls.foldl Image.apply s.image) ∧
    (t.fault ≠ none → t.trace = s.trace)

/-- 10_state.md R32, R33, R46 (I3, I4): while instance k has its slice to itself before and after the step, every step
keeps the image as that instance's attributes say.
Rests on the spec's own decisions D16, D18 (log 17). -/
def Obligations.EveryStepKeepsTheImageOfAnExclusiveInstance : Prop :=
  ∀ (s t : State) (k : Nat), s.AttributesWf → s.Exclusive k → t.Exclusive k →
    (∀ c, s.Holds k c → c.AgreesWith s.image) → step s = .next t →
    ∀ c, t.Holds k c → c.AgreesWith t.image

/-- 10_state.md R33 with R43, in a system of one instance: what every step keeps of I1 to I4, and what the pin then is
driven with.
Rests on the spec's own decisions D18, D27 (log 17). -/
def Obligations.OneInstanceDrivesItsPinAsItsFlagSays : Prop :=
  ∀ s t : State, s.inst.length = 1 → s.AttributesWf → (∀ c, s.Holds 0 c → c.AgreesWith s.image) →
    step s = .next t →
    t.inst.length = 1 ∧ t.AttributesWf ∧ ∀ c, t.Holds 0 c → c.AgreesWith t.image ∧
      (c.enabled = true → t.image.pinDrive c.pin = .pwm c.slice c.channel) ∧
      (c.enabled = false → t.image.pinDrive c.pin = .low)

/-- 30_encoding.md R88 with 60_exceptions.md R187: every step keeps the responses one OK per completed command, with
FAULT(cause) last exactly when a fault is recorded; and a command that is answered is answered once.
Rests on the spec's own decisions D9, D26 (log 17). -/
def Obligations.EveryStepKeepsTheAnswersInAgreement : Prop :=
  ∀ s t : State, s.AnswersAgree → step s = .next t →
    t.AnswersAgree ∧
    ∀ k w rest, s.inputs = .command k w :: rest →
      ∃ r, t.responses = s.responses ++ [r] ∧ (r = .ok ↔ t.fault = none)

/-- 60_exceptions.md R180, R187: every step keeps the fault register empty or holding a record of the shape its cause
says, for an instance that exists.
Rests on the spec's own decisions D9, D10 (log 17). -/
def Obligations.EveryStepKeepsTheFaultRecordLegal : Prop :=
  ∀ s t : State, s.FaultWf → step s = .next t → t.FaultWf

/-- The reset state, of any legal configuration and number of instances, has every invariant above.
Rests on the spec's own decision D22 (log 17). -/
def Obligations.ResetStateHasEveryInvariant : Prop :=
  ∀ (cfg : Config) (n : Nat), cfg.Wf →
    (State.resetOf cfg n).AttributesWf ∧ (State.resetOf cfg n).TraceAgrees ∧ (State.resetOf cfg n).AnswersAgree ∧
    (State.resetOf cfg n).FaultWf ∧
    ∀ k, (State.resetOf cfg n).Exclusive k ∧
      ∀ c, (State.resetOf cfg n).Holds k c → c.AgreesWith (State.resetOf cfg n).image

/-- 00_scope.md R5 and 10_state.md R21: no step changes the configuration or the number of instances, and an instance
that has been constructed stays constructed until reset. -/
def Obligations.ConstructedUntilReset : Prop :=
  ∀ s t : State, step s = .next t →
    t.config = s.config ∧ t.inst.length = s.inst.length ∧
    ((∀ rest, s.inputs ≠ .reset :: rest) → ∀ k c, s.Holds k c → ∃ c', t.Holds k c')

/-- 70_reset_and_hazards.md R224: every run completes or faults; the block cannot hang.
Rests on the spec's own decision D23 (log 17), and on the model's form of the host's side: the list of what it will
present, each input consumed when taken (log 4, DESIGN CHOICE), in which resets may stand (log 5, DESIGN CHOICE), and
the premise that every port in it exists (log 8, DEDUCED). -/
def Obligations.EveryRunCompletesOrFaults : Prop :=
  ∀ s : State, s.Running → s.PortsExist → ∃ t, s.Reaches t ∧ t.Over
end

