-- ==== Sys2Proof/Laws/Decode.lean ====
section
/-! SUPPORT. The fields of an encoded word, and the two readings of field A as inverse to one another
(30_encoding.md rules R80 and R83). -/

namespace Sys2Proof

@[simp] theorem opField_fields (op a : BitVec 8) (f : BitVec 32) : opField (op ++ a ++ f) = op := by
  ext i hi
  simp only [opField, BitVec.getElem_extractLsb', BitVec.getLsbD_append]
  simp [show ¬ 40 + i < 32 by omega, show ¬ 40 + i - 32 < 8 by omega, show 40 + i - 32 - 8 = i by omega, hi]

@[simp] theorem aField_fields (op a : BitVec 8) (f : BitVec 32) : aField (op ++ a ++ f) = a := by
  ext i hi
  simp only [aField, BitVec.getElem_extractLsb', BitVec.getLsbD_append]
  simp [show ¬ 32 + i < 32 by omega, show 32 + i - 32 = i by omega, hi]

@[simp] theorem fField_fields (op a : BitVec 8) (f : BitVec 32) : fField (op ++ a ++ f) = f := by
  ext i hi
  simp only [fField, BitVec.getElem_extractLsb', BitVec.getLsbD_append]
  simp [hi]

/-- A word is its three fields (R80). -/
theorem word_eq_fields (w : CommandWord) : opField w ++ aField w ++ fField w = w := by
  ext i hi
  simp only [opField, aField, fField, BitVec.getElem_append, BitVec.getElem_extractLsb']
  split
  · simp [BitVec.getLsbD_eq_getElem hi]
  · split
    · rw [show 32 + (i - 32) = i by omega, BitVec.getLsbD_eq_getElem hi]
    · rw [show 40 + (i - 32 - 8) = i by omega, BitVec.getLsbD_eq_getElem hi]

/-- Reading back an integer that field A can hold (R83). -/
theorem sext8_ofInt {v : Int} (h : fitsFieldA v = true) : sext8 (BitVec.ofInt 8 v) = v := by
  simp only [fitsFieldA, Bool.and_eq_true, decide_eq_true_eq] at h
  simp only [sext8, BitVec.toInt_ofInt]
  exact Int.bmod_eq_of_le (by omega) (by omega)

@[simp] theorem ofInt_sext8 (a : BitVec 8) : BitVec.ofInt 8 (sext8 a) = a := BitVec.ofInt_toInt

/-- Every value of field A is an operand that can be written (R83). -/
theorem fitsFieldA_sext8 (a : BitVec 8) : fitsFieldA (sext8 a) = true := by
  have h1 := BitVec.le_toInt a
  have h2 := BitVec.toInt_lt (x := a)
  norm_num at h1 h2
  exact Bool.and_eq_true_iff.mpr ⟨decide_eq_true (show -128 ≤ a.toInt by omega),
    decide_eq_true (show a.toInt ≤ 127 by omega)⟩

end Sys2Proof
end

