-- ==== Sys2Proof/Laws/Image.lean ====
section
/-! SUPPORT. Read after write for the register image (20_memory.md rules R52 to R59): reading the register a setter
writes gives the value at its index and the old value elsewhere, and every other register reads as before. -/

namespace Sys2Proof.Machine

open Sys2Proof

@[simp] theorem Image.div_setDiv (im : Image) (s : SliceIx) (d : DivT) (i : SliceIx) :
    (im.setDiv s d).div i = if i = s then some d else im.div i := by
  simp only [Image.div, Image.setDiv, Vector.getElem_set, Fin.ext_iff, eq_comm]

@[simp] theorem Image.top_setDiv (im : Image) (s : SliceIx) (d : DivT) (i : SliceIx) :
    (im.setDiv s d).top i = im.top i := rfl

@[simp] theorem Image.en_setDiv (im : Image) (s : SliceIx) (d : DivT) (i : SliceIx) :
    (im.setDiv s d).en i = im.en i := rfl

@[simp] theorem Image.func_setDiv (im : Image) (s : SliceIx) (d : DivT) (i : Pin) :
    (im.setDiv s d).func i = im.func i := rfl

@[simp] theorem Image.out_setDiv (im : Image) (s : SliceIx) (d : DivT) (i : Pin) :
    (im.setDiv s d).out i = im.out i := rfl

@[simp] theorem Image.cc_setDiv (im : Image) (s : SliceIx) (d : DivT) (i : SliceIx) (ch : Channel) :
    (im.setDiv s d).cc i ch = im.cc i ch := by cases ch <;> rfl

@[simp] theorem Image.top_setTop (im : Image) (s : SliceIx) (w : Ticks) (i : SliceIx) :
    (im.setTop s w).top i = if i = s then some w else im.top i := by
  simp only [Image.top, Image.setTop, Vector.getElem_set, Fin.ext_iff, eq_comm]

@[simp] theorem Image.div_setTop (im : Image) (s : SliceIx) (w : Ticks) (i : SliceIx) :
    (im.setTop s w).div i = im.div i := rfl

@[simp] theorem Image.en_setTop (im : Image) (s : SliceIx) (w : Ticks) (i : SliceIx) :
    (im.setTop s w).en i = im.en i := rfl

@[simp] theorem Image.func_setTop (im : Image) (s : SliceIx) (w : Ticks) (i : Pin) :
    (im.setTop s w).func i = im.func i := rfl

@[simp] theorem Image.out_setTop (im : Image) (s : SliceIx) (w : Ticks) (i : Pin) :
    (im.setTop s w).out i = im.out i := rfl

@[simp] theorem Image.cc_setTop (im : Image) (s : SliceIx) (w : Ticks) (i : SliceIx) (ch : Channel) :
    (im.setTop s w).cc i ch = im.cc i ch := by cases ch <;> rfl

@[simp] theorem Image.en_setEn (im : Image) (s : SliceIx) (b : Bool) (i : SliceIx) :
    (im.setEn s b).en i = if i = s then some b else im.en i := by
  simp only [Image.en, Image.setEn, Vector.getElem_set, Fin.ext_iff, eq_comm]

@[simp] theorem Image.div_setEn (im : Image) (s : SliceIx) (b : Bool) (i : SliceIx) :
    (im.setEn s b).div i = im.div i := rfl

@[simp] theorem Image.top_setEn (im : Image) (s : SliceIx) (b : Bool) (i : SliceIx) :
    (im.setEn s b).top i = im.top i := rfl

@[simp] theorem Image.func_setEn (im : Image) (s : SliceIx) (b : Bool) (i : Pin) :
    (im.setEn s b).func i = im.func i := rfl

@[simp] theorem Image.out_setEn (im : Image) (s : SliceIx) (b : Bool) (i : Pin) :
    (im.setEn s b).out i = im.out i := rfl

@[simp] theorem Image.cc_setEn (im : Image) (s : SliceIx) (b : Bool) (i : SliceIx) (ch : Channel) :
    (im.setEn s b).cc i ch = im.cc i ch := by cases ch <;> rfl

@[simp] theorem Image.func_setFunc (im : Image) (p : Pin) (fn : PinFunc) (i : Pin) :
    (im.setFunc p fn).func i = if i = p then some fn else im.func i := by
  simp only [Image.func, Image.setFunc, Vector.getElem_set, Fin.ext_iff, eq_comm]

@[simp] theorem Image.div_setFunc (im : Image) (p : Pin) (fn : PinFunc) (i : SliceIx) :
    (im.setFunc p fn).div i = im.div i := rfl

@[simp] theorem Image.top_setFunc (im : Image) (p : Pin) (fn : PinFunc) (i : SliceIx) :
    (im.setFunc p fn).top i = im.top i := rfl

@[simp] theorem Image.en_setFunc (im : Image) (p : Pin) (fn : PinFunc) (i : SliceIx) :
    (im.setFunc p fn).en i = im.en i := rfl

@[simp] theorem Image.out_setFunc (im : Image) (p : Pin) (fn : PinFunc) (i : Pin) :
    (im.setFunc p fn).out i = im.out i := rfl

@[simp] theorem Image.cc_setFunc (im : Image) (p : Pin) (fn : PinFunc) (i : SliceIx) (ch : Channel) :
    (im.setFunc p fn).cc i ch = im.cc i ch := by cases ch <;> rfl

@[simp] theorem Image.out_setOut (im : Image) (p : Pin) (b : Bool) (i : Pin) :
    (im.setOut p b).out i = if i = p then some b else im.out i := by
  simp only [Image.out, Image.setOut, Vector.getElem_set, Fin.ext_iff, eq_comm]

@[simp] theorem Image.div_setOut (im : Image) (p : Pin) (b : Bool) (i : SliceIx) :
    (im.setOut p b).div i = im.div i := rfl

@[simp] theorem Image.top_setOut (im : Image) (p : Pin) (b : Bool) (i : SliceIx) :
    (im.setOut p b).top i = im.top i := rfl

@[simp] theorem Image.en_setOut (im : Image) (p : Pin) (b : Bool) (i : SliceIx) :
    (im.setOut p b).en i = im.en i := rfl

@[simp] theorem Image.func_setOut (im : Image) (p : Pin) (b : Bool) (i : Pin) :
    (im.setOut p b).func i = im.func i := rfl

@[simp] theorem Image.cc_setOut (im : Image) (p : Pin) (b : Bool) (i : SliceIx) (ch : Channel) :
    (im.setOut p b).cc i ch = im.cc i ch := by cases ch <;> rfl

@[simp] theorem Image.cc_setCc (im : Image) (s : SliceIx) (ch : Channel) (l : Ticks) (i : SliceIx) (ch' : Channel) :
    (im.setCc s ch l).cc i ch' = if i = s ∧ ch' = ch then some l else im.cc i ch' := by
  cases ch <;> cases ch' <;>
    simp [Image.cc, Image.setCc, Vector.getElem_set, Fin.ext_iff, eq_comm]

@[simp] theorem Image.div_setCc (im : Image) (s : SliceIx) (ch : Channel) (l : Ticks) (i : SliceIx) :
    (im.setCc s ch l).div i = im.div i := by cases ch <;> rfl

@[simp] theorem Image.top_setCc (im : Image) (s : SliceIx) (ch : Channel) (l : Ticks) (i : SliceIx) :
    (im.setCc s ch l).top i = im.top i := by cases ch <;> rfl

@[simp] theorem Image.en_setCc (im : Image) (s : SliceIx) (ch : Channel) (l : Ticks) (i : SliceIx) :
    (im.setCc s ch l).en i = im.en i := by cases ch <;> rfl

@[simp] theorem Image.func_setCc (im : Image) (s : SliceIx) (ch : Channel) (l : Ticks) (i : Pin) :
    (im.setCc s ch l).func i = im.func i := by cases ch <;> rfl

@[simp] theorem Image.out_setCc (im : Image) (s : SliceIx) (ch : Channel) (l : Ticks) (i : Pin) :
    (im.setCc s ch l).out i = im.out i := by cases ch <;> rfl

/-! ### Calls -/

@[simp] theorem Image.apply_setClkDiv (im : Image) (s : SliceIx) (d : DivT) :
    im.apply (.setClkDiv s d) = im.setDiv s d := rfl

@[simp] theorem Image.apply_setPeriod (im : Image) (s : SliceIx) (w : Ticks) :
    im.apply (.setPeriod s w) = im.setTop s w := rfl

@[simp] theorem Image.apply_setLevel (im : Image) (s : SliceIx) (ch : Channel) (l : Ticks) :
    im.apply (.setLevel s ch l) = im.setCc s ch l := rfl

@[simp] theorem Image.apply_setSliceEnabled (im : Image) (s : SliceIx) (b : Bool) :
    im.apply (.setSliceEnabled s b) = im.setEn s b := rfl

@[simp] theorem Image.apply_gpioDeinit (im : Image) (p : Pin) : im.apply (.gpioDeinit p) = im.setFunc p .none := rfl

@[simp] theorem Image.apply_gpioInit (im : Image) (p : Pin) : im.apply (.gpioInit p) = im.setFunc p .sio := rfl

@[simp] theorem Image.apply_gpioSetFunctionPwm (im : Image) (p : Pin) :
    im.apply (.gpioSetFunctionPwm p) = im.setFunc p .pwm := rfl

@[simp] theorem Image.apply_gpioSetOutput (im : Image) (p : Pin) (b : Bool) :
    im.apply (.gpioSetOutput p b) = im.setOut p b := rfl

@[simp] theorem Image.applyAll_nil (im : Image) : im.applyAll [] = im := rfl

@[simp] theorem Image.applyAll_cons (im : Image) (c : Call) (cs : List Call) :
    im.applyAll (c :: cs) = (im.apply c).applyAll cs := rfl

theorem Image.applyAll_append (im : Image) (cs ds : List Call) :
    im.applyAll (cs ++ ds) = (im.applyAll cs).applyAll ds := by
  simp [Image.applyAll, List.foldl_append]

/-- The fold of a longer trace is the fold of its end over the fold of its start (R69). -/
theorem Image.replay_append (trace more : List (Nat × Call)) :
    Image.replay (trace ++ more) = (Image.replay trace).applyAll (more.map Prod.snd) := by
  simp [Image.replay, Image.applyAll_append]

/-- Two images that read alike are the same image. -/
theorem Image.eq_of_reads {im im' : Image} (hdiv : ∀ s, im.div s = im'.div s) (htop : ∀ s, im.top s = im'.top s)
    (hcc : ∀ s ch, im.cc s ch = im'.cc s ch) (hen : ∀ s, im.en s = im'.en s)
    (hfunc : ∀ p, im.func p = im'.func p) (hout : ∀ p, im.out p = im'.out p) : im = im' := by
  cases im; cases im'
  simp only [Image.mk.injEq]
  refine ⟨?_, ?_, ?_, ?_, ?_, ?_, ?_⟩ <;> ext1 i hi
  · exact hdiv ⟨i, hi⟩
  · exact htop ⟨i, hi⟩
  · exact hcc ⟨i, hi⟩ .a
  · exact hcc ⟨i, hi⟩ .b
  · exact hen ⟨i, hi⟩
  · exact hfunc ⟨i, hi⟩
  · exact hout ⟨i, hi⟩

/-! ### The unwritten image (10_state.md rule R45) -/

@[simp] theorem Image.div_unwritten (i : SliceIx) : Image.unwritten.div i = none := by
  simp [Image.div, Image.unwritten]

@[simp] theorem Image.top_unwritten (i : SliceIx) : Image.unwritten.top i = none := by
  simp [Image.top, Image.unwritten]

@[simp] theorem Image.en_unwritten (i : SliceIx) : Image.unwritten.en i = none := by
  simp [Image.en, Image.unwritten]

@[simp] theorem Image.func_unwritten (i : Pin) : Image.unwritten.func i = none := by
  simp [Image.func, Image.unwritten]

@[simp] theorem Image.out_unwritten (i : Pin) : Image.unwritten.out i = none := by
  simp [Image.out, Image.unwritten]

@[simp] theorem Image.cc_unwritten (i : SliceIx) (ch : Channel) : Image.unwritten.cc i ch = none := by
  cases ch <;> simp [Image.cc, Image.unwritten]

end Sys2Proof.Machine
end

