-- ==== Sys2Proof/Laws/State.lean ====
section
/-! SUPPORT. One lemma per field per update of State and of Controller, each true by definition, so that no proof
unfolds a record update. -/

namespace Sys2Proof.Machine

open Sys2Proof

@[simp] theorem State.config_takeFault (s : State) (cause : Cause) (info : FaultInfo) :
    (s.takeFault cause info).config = s.config := rfl

@[simp] theorem State.inst_takeFault (s : State) (cause : Cause) (info : FaultInfo) :
    (s.takeFault cause info).inst = s.inst := rfl

@[simp] theorem State.fault_takeFault (s : State) (cause : Cause) (info : FaultInfo) :
    (s.takeFault cause info).fault = some ⟨cause, s.port, info⟩ := rfl

@[simp] theorem State.image_takeFault (s : State) (cause : Cause) (info : FaultInfo) :
    (s.takeFault cause info).image = s.image := rfl

@[simp] theorem State.trace_takeFault (s : State) (cause : Cause) (info : FaultInfo) :
    (s.takeFault cause info).trace = s.trace := rfl

@[simp] theorem State.responses_takeFault (s : State) (cause : Cause) (info : FaultInfo) :
    (s.takeFault cause info).responses = s.responses ++ [.fault cause] := rfl

@[simp] theorem State.inputs_takeFault (s : State) (cause : Cause) (info : FaultInfo) :
    (s.takeFault cause info).inputs = s.inputs := rfl

@[simp] theorem State.port_takeFault (s : State) (cause : Cause) (info : FaultInfo) :
    (s.takeFault cause info).port = s.port := rfl

@[simp] theorem State.config_complete (s : State) (c : Controller) (calls : List Call) :
    (s.complete c calls).config = s.config := rfl

@[simp] theorem State.inst_complete (s : State) (c : Controller) (calls : List Call) :
    (s.complete c calls).inst = s.inst.set s.port (some c) := rfl

@[simp] theorem State.fault_complete (s : State) (c : Controller) (calls : List Call) :
    (s.complete c calls).fault = s.fault := rfl

@[simp] theorem State.image_complete (s : State) (c : Controller) (calls : List Call) :
    (s.complete c calls).image = s.image.applyAll calls := rfl

@[simp] theorem State.trace_complete (s : State) (c : Controller) (calls : List Call) :
    (s.complete c calls).trace = s.trace ++ calls.map (fun call => (s.port, call)) := rfl

@[simp] theorem State.responses_complete (s : State) (c : Controller) (calls : List Call) :
    (s.complete c calls).responses = s.responses ++ [.ok] := rfl

@[simp] theorem State.inputs_complete (s : State) (c : Controller) (calls : List Call) :
    (s.complete c calls).inputs = s.inputs := rfl

@[simp] theorem State.port_complete (s : State) (c : Controller) (calls : List Call) :
    (s.complete c calls).port = s.port := rfl

@[simp] theorem State.config_present (s : State) (k : Nat) (rest : List HostInput) :
    (s.present k rest).config = s.config := rfl

@[simp] theorem State.inst_present (s : State) (k : Nat) (rest : List HostInput) :
    (s.present k rest).inst = s.inst := rfl

@[simp] theorem State.fault_present (s : State) (k : Nat) (rest : List HostInput) :
    (s.present k rest).fault = s.fault := rfl

@[simp] theorem State.image_present (s : State) (k : Nat) (rest : List HostInput) :
    (s.present k rest).image = s.image := rfl

@[simp] theorem State.trace_present (s : State) (k : Nat) (rest : List HostInput) :
    (s.present k rest).trace = s.trace := rfl

@[simp] theorem State.responses_present (s : State) (k : Nat) (rest : List HostInput) :
    (s.present k rest).responses = s.responses := rfl

@[simp] theorem State.inputs_present (s : State) (k : Nat) (rest : List HostInput) :
    (s.present k rest).inputs = rest := rfl

@[simp] theorem State.port_present (s : State) (k : Nat) (rest : List HostInput) :
    (s.present k rest).port = k := rfl

@[simp] theorem State.config_assertReset (s : State) (rest : List HostInput) :
    (s.assertReset rest).config = s.config := rfl

@[simp] theorem State.inst_assertReset (s : State) (rest : List HostInput) :
    (s.assertReset rest).inst = List.replicate s.inst.length none := rfl

@[simp] theorem State.fault_assertReset (s : State) (rest : List HostInput) :
    (s.assertReset rest).fault = none := rfl

@[simp] theorem State.image_assertReset (s : State) (rest : List HostInput) :
    (s.assertReset rest).image = Image.unwritten := rfl

@[simp] theorem State.trace_assertReset (s : State) (rest : List HostInput) :
    (s.assertReset rest).trace = [] := rfl

@[simp] theorem State.responses_assertReset (s : State) (rest : List HostInput) :
    (s.assertReset rest).responses = [] := rfl

@[simp] theorem State.inputs_assertReset (s : State) (rest : List HostInput) :
    (s.assertReset rest).inputs = rest := rfl

@[simp] theorem State.port_assertReset (s : State) (rest : List HostInput) :
    (s.assertReset rest).port = 0 := rfl

@[simp] theorem State.config_resetOf (c : Config) (n : Nat) : (State.resetOf c n).config = c := rfl

@[simp] theorem State.inst_resetOf (c : Config) (n : Nat) : (State.resetOf c n).inst = List.replicate n none := rfl

@[simp] theorem State.fault_resetOf (c : Config) (n : Nat) : (State.resetOf c n).fault = none := rfl

@[simp] theorem State.image_resetOf (c : Config) (n : Nat) : (State.resetOf c n).image = Image.unwritten := rfl

@[simp] theorem State.trace_resetOf (c : Config) (n : Nat) : (State.resetOf c n).trace = [] := rfl

@[simp] theorem State.responses_resetOf (c : Config) (n : Nat) : (State.resetOf c n).responses = [] := rfl

@[simp] theorem State.inputs_resetOf (c : Config) (n : Nat) : (State.resetOf c n).inputs = [] := rfl

@[simp] theorem State.port_resetOf (c : Config) (n : Nat) : (State.resetOf c n).port = 0 := rfl

@[simp] theorem Controller.pin_bind (c : Controller) (p : Pin) :
    (c.bind p).pin = p := rfl

@[simp] theorem Controller.slice_bind (c : Controller) (p : Pin) :
    (c.bind p).slice = (topo p).1 := rfl

@[simp] theorem Controller.channel_bind (c : Controller) (p : Pin) :
    (c.bind p).channel = (topo p).2 := rfl

@[simp] theorem Controller.frequencyHz_bind (c : Controller) (p : Pin) :
    (c.bind p).frequencyHz = c.frequencyHz := rfl

@[simp] theorem Controller.clockDivider_bind (c : Controller) (p : Pin) :
    (c.bind p).clockDivider = c.clockDivider := rfl

@[simp] theorem Controller.wrap_bind (c : Controller) (p : Pin) :
    (c.bind p).wrap = c.wrap := rfl

@[simp] theorem Controller.dutyCyclePercent_bind (c : Controller) (p : Pin) :
    (c.bind p).dutyCyclePercent = c.dutyCyclePercent := rfl

@[simp] theorem Controller.enabled_bind (c : Controller) (p : Pin) :
    (c.bind p).enabled = c.enabled := rfl

@[simp] theorem Controller.pin_retune (c : Controller) (cfg : Config) (f : Freq) :
    (c.retune cfg f).pin = c.pin := rfl

@[simp] theorem Controller.slice_retune (c : Controller) (cfg : Config) (f : Freq) :
    (c.retune cfg f).slice = c.slice := rfl

@[simp] theorem Controller.channel_retune (c : Controller) (cfg : Config) (f : Freq) :
    (c.retune cfg f).channel = c.channel := rfl

@[simp] theorem Controller.frequencyHz_retune (c : Controller) (cfg : Config) (f : Freq) :
    (c.retune cfg f).frequencyHz = f := rfl

@[simp] theorem Controller.clockDivider_retune (c : Controller) (cfg : Config) (f : Freq) :
    (c.retune cfg f).clockDivider = (freqConv cfg.S f.toNat).1 := rfl

@[simp] theorem Controller.wrap_retune (c : Controller) (cfg : Config) (f : Freq) :
    (c.retune cfg f).wrap = BitVec.ofNat 16 (freqConv cfg.S f.toNat).2 := rfl

@[simp] theorem Controller.dutyCyclePercent_retune (c : Controller) (cfg : Config) (f : Freq) :
    (c.retune cfg f).dutyCyclePercent = c.dutyCyclePercent := rfl

@[simp] theorem Controller.enabled_retune (c : Controller) (cfg : Config) (f : Freq) :
    (c.retune cfg f).enabled = c.enabled := rfl

@[simp] theorem Controller.pin_fresh (cfg : Config) (p : Pin) (f : Freq) :
    (Controller.fresh cfg p f).pin = p := rfl

@[simp] theorem Controller.slice_fresh (cfg : Config) (p : Pin) (f : Freq) :
    (Controller.fresh cfg p f).slice = (topo p).1 := rfl

@[simp] theorem Controller.channel_fresh (cfg : Config) (p : Pin) (f : Freq) :
    (Controller.fresh cfg p f).channel = (topo p).2 := rfl

@[simp] theorem Controller.frequencyHz_fresh (cfg : Config) (p : Pin) (f : Freq) :
    (Controller.fresh cfg p f).frequencyHz = f := rfl

@[simp] theorem Controller.clockDivider_fresh (cfg : Config) (p : Pin) (f : Freq) :
    (Controller.fresh cfg p f).clockDivider = (freqConv cfg.S f.toNat).1 := rfl

@[simp] theorem Controller.wrap_fresh (cfg : Config) (p : Pin) (f : Freq) :
    (Controller.fresh cfg p f).wrap = BitVec.ofNat 16 (freqConv cfg.S f.toNat).2 := rfl

@[simp] theorem Controller.dutyCyclePercent_fresh (cfg : Config) (p : Pin) (f : Freq) :
    (Controller.fresh cfg p f).dutyCyclePercent = 0#7 := rfl

@[simp] theorem Controller.enabled_fresh (cfg : Config) (p : Pin) (f : Freq) :
    (Controller.fresh cfg p f).enabled = false := rfl

end Sys2Proof.Machine
end

