-- ==== Sys2Proof/Laws/Exec.lean ====
section
/-! SUPPORT. What a command can do, said once: the inversion lemmas of the shared operations, of `exec` and of `step`,
and the equation of each meaning where it completes. Later proofs cite these and unfold nothing. -/

namespace Sys2Proof.Machine

open Sys2Proof

/-! ### Operands -/

theorem pinOperand_val (p : Pin) : pinOperand (p.val : Int) = some p := by
  have h : (0 : Int) ≤ (p.val : Int) ∧ (p.val : Int) ≤ pinMax := by
    unfold pinMax; omega
  simp [pinOperand, h]

theorem pinOperand_eq_some {v : Int} {p : Pin} (h : pinOperand v = some p) : v = (p.val : Int) := by
  unfold pinOperand at h
  split at h
  · cases h; simp only []; omega
  · cases h

theorem pinOperand_eq_none {v : Int} : pinOperand v = none ↔ v < 0 ∨ 29 < v := by
  unfold pinOperand pinMax
  split
  · simp; omega
  · simp; omega

theorem dutyOperand_ofNat {d : Nat} (h : d ≤ 100) : dutyOperand (d : Int) = some (BitVec.ofNat 7 d) := by
  have : (0 : Int) ≤ (d : Int) ∧ (d : Int) ≤ dutyMax := by unfold dutyMax; omega
  simp [dutyOperand, this]

theorem dutyOperand_eq_some {v : Int} {d : Duty} (h : dutyOperand v = some d) :
    v = (d.toNat : Int) ∧ d.toNat ≤ 100 := by
  unfold dutyOperand dutyMax at h
  split at h
  · cases h
    rename_i hv
    have : v.toNat % 128 = v.toNat := Nat.mod_eq_of_lt (by omega)
    simp only [BitVec.toNat_ofNat, show (2 : Nat) ^ 7 = 128 from rfl, this]
    omega
  · cases h

theorem dutyOperand_eq_none {v : Int} : dutyOperand v = none ↔ v < 0 ∨ 100 < v := by
  unfold dutyOperand dutyMax
  split
  · simp; omega
  · simp; omega

/-! ### The shared stages -/

theorem State.atPort_of {s : State} {slot : Option Controller} (hf : s.Running) (hs : s.inst[s.port]? = some slot)
    (body : Option Controller → Host.Outcome State Fault Refusal) : s.atPort body = body slot := by
  simp only [State.atPort, hf, hs]

theorem State.atPort_next {s t : State} {body : Option Controller → Host.Outcome State Fault Refusal}
    (h : s.atPort body = .next t) : s.Running ∧ ∃ slot, s.inst[s.port]? = some slot ∧ body slot = .next t := by
  unfold State.atPort at h
  split at h
  · cases h
  · split at h
    · cases h
    · exact ⟨‹_›, _, ‹_›, h⟩

theorem State.onConstructed_of {s : State} {c : Controller} (h : s.Ready c) (i : Instr)
    (body : Controller → Host.Outcome State Fault Refusal) : s.onConstructed i body = body c :=
  State.atPort_of h.1 h.2 _

/-- A command other than CONSTRUCT that answers a next state. -/
theorem State.onConstructed_next {s t : State} {i : Instr} {body : Controller → Host.Outcome State Fault Refusal}
    (h : s.onConstructed i body = .next t) :
    s.Running ∧ ((s.inst[s.port]? = some none ∧ t = s.takeFault .sequenceError (.word (encode i))) ∨
      ∃ c, s.Holds s.port c ∧ body c = .next t) := by
  obtain ⟨hf, slot, hs, hb⟩ := State.atPort_next h
  refine ⟨hf, ?_⟩
  cases slot with
  | none => cases hb; exact .inl ⟨hs, rfl⟩
  | some c => exact .inr ⟨c, hs, hb⟩

theorem State.onUnconstructed_of {s : State} (hf : s.Running) (hs : s.inst[s.port]? = some none) (i : Instr)
    (body : Host.Outcome State Fault Refusal) : s.onUnconstructed i body = body :=
  State.atPort_of hf hs _

/-- A CONSTRUCT that answers a next state. -/
theorem State.onUnconstructed_next {s t : State} {i : Instr} {body : Host.Outcome State Fault Refusal}
    (h : s.onUnconstructed i body = .next t) :
    s.Running ∧ ((∃ c, s.Holds s.port c ∧ t = s.takeFault .sequenceError (.word (encode i))) ∨
      (s.inst[s.port]? = some none ∧ body = .next t)) := by
  obtain ⟨hf, slot, hs, hb⟩ := State.atPort_next h
  refine ⟨hf, ?_⟩
  cases slot with
  | none => exact .inr ⟨hs, hb⟩
  | some c => cases hb; exact .inl ⟨c, hs, rfl⟩

/-! ### What each command leaves in its controller, and the calls it makes -/

/-- The attributes a completed command leaves, from those before it (`none`: unconstructed). -/
inductive Effect (cfg : Config) : Instr → Option Controller → Controller → List Call → Prop where
  | construct (p : Pin) (f : Freq) :
      Effect cfg (.construct p.val f) none (Controller.fresh cfg p f)
        ((Controller.fresh cfg p f).bindPin ++ (Controller.fresh cfg p f).programTiming ++
          (Controller.fresh cfg p f).applyEnable)
  | setGpio (p : Pin) (c : Controller) :
      Effect cfg (.setGpio p.val) (some c) (c.bind p)
        (c.release ++ (c.bind p).bindPin ++ (c.bind p).programTiming ++ (c.bind p).applyEnable)
  | setFreq (f : Freq) (c : Controller) :
      Effect cfg (.setFreq f) (some c) (c.retune cfg f)
        ((c.retune cfg f).programTiming ++ (c.retune cfg f).applyEnable)
  | on (d : Duty) (h : d.toNat ≤ 100) (c c' : Controller)
      (hc : c' = { c with dutyCyclePercent := d, enabled := true }) :
      Effect cfg (.on (d.toNat : Int)) (some c) c' (c'.programLevel ++ c'.applyEnable)
  | off (c c' : Controller) (hc : c' = { c with enabled := false }) :
      Effect cfg .off (some c) c' c'.applyEnable

/-- Why a command that executes is turned away. -/
inductive TurnedAway : Instr → Option Controller → Cause → FaultInfo → Prop where
  | constructTwice (p : Int) (f : Freq) (c : Controller) :
      TurnedAway (.construct p f) (some c) .sequenceError (.word (encode (.construct p f)))
  | notConstructed (i : Instr) (hi : i.mnemonic ≠ .construct) :
      TurnedAway i none .sequenceError (.word (encode i))
  | constructPin (p : Int) (f : Freq) (hp : p < 0 ∨ 29 < p) :
      TurnedAway (.construct p f) none .invalidPin (.operand p)
  | setGpioPin (p : Int) (c : Controller) (hp : p < 0 ∨ 29 < p) :
      TurnedAway (.setGpio p) (some c) .invalidPin (.operand p)
  | onDuty (d : Int) (c : Controller) (hd : d < 0 ∨ 100 < d) :
      TurnedAway (.on d) (some c) .invalidDuty (.operand d)

/-- Everything a command that answers a next state can have done. -/
theorem exec_next {i : Instr} {s t : State} (h : exec i s = .next t) :
    s.Running ∧ ∃ slot, s.inst[s.port]? = some slot ∧
      ((∃ c calls, Effect s.config i slot c calls ∧ t = s.complete c calls) ∨
        ∃ cause info, TurnedAway i slot cause info ∧ t = s.takeFault cause info) := by
  cases i with
  | construct p f =>
    obtain ⟨hf, ⟨c, hs, rfl⟩ | ⟨hs, hb⟩⟩ := State.onUnconstructed_next h
    · exact ⟨hf, _, hs, .inr ⟨_, _, .constructTwice p f c, rfl⟩⟩
    · refine ⟨hf, _, hs, ?_⟩
      split at hb
      · cases hb; exact .inr ⟨_, _, .constructPin p f (pinOperand_eq_none.mp ‹_›), rfl⟩
      · rename_i q hq
        cases hb
        rw [pinOperand_eq_some hq]
        exact .inl ⟨_, _, .construct q f, rfl⟩
  | setGpio p =>
    obtain ⟨hf, ⟨hs, rfl⟩ | ⟨c, hs, hb⟩⟩ := State.onConstructed_next h
    · exact ⟨hf, _, hs, .inr ⟨_, _, .notConstructed _ (by simp [Instr.mnemonic]), rfl⟩⟩
    · refine ⟨hf, _, hs, ?_⟩
      split at hb
      · cases hb; exact .inr ⟨_, _, .setGpioPin p c (pinOperand_eq_none.mp ‹_›), rfl⟩
      · rename_i q hq
        cases hb
        rw [pinOperand_eq_some hq]
        exact .inl ⟨_, _, .setGpio q c, rfl⟩
  | setFreq f =>
    obtain ⟨hf, ⟨hs, rfl⟩ | ⟨c, hs, hb⟩⟩ := State.onConstructed_next h
    · exact ⟨hf, _, hs, .inr ⟨_, _, .notConstructed _ (by simp [Instr.mnemonic]), rfl⟩⟩
    · cases hb
      exact ⟨hf, _, hs, .inl ⟨_, _, .setFreq f c, rfl⟩⟩
  | on d =>
    obtain ⟨hf, ⟨hs, rfl⟩ | ⟨c, hs, hb⟩⟩ := State.onConstructed_next h
    · exact ⟨hf, _, hs, .inr ⟨_, _, .notConstructed _ (by simp [Instr.mnemonic]), rfl⟩⟩
    · refine ⟨hf, _, hs, ?_⟩
      split at hb
      · cases hb; exact .inr ⟨_, _, .onDuty d c (dutyOperand_eq_none.mp ‹_›), rfl⟩
      · rename_i q hq
        cases hb
        obtain ⟨hv, hle⟩ := dutyOperand_eq_some hq
        rw [hv]
        exact .inl ⟨_, _, .on q hle c _ rfl, rfl⟩
  | off =>
    obtain ⟨hf, ⟨hs, rfl⟩ | ⟨c, hs, hb⟩⟩ := State.onConstructed_next h
    · exact ⟨hf, _, hs, .inr ⟨_, _, .notConstructed _ (by simp [Instr.mnemonic]), rfl⟩⟩
    · cases hb
      exact ⟨hf, _, hs, .inl ⟨_, _, .off c _ rfl, rfl⟩⟩

/-- A command whose operands and instance allow it answers the completed state. -/
theorem exec_of_effect {i : Instr} {s : State} {slot : Option Controller} {c : Controller} {calls : List Call}
    (hf : s.Running) (hs : s.inst[s.port]? = some slot) (h : Effect s.config i slot c calls) :
    exec i s = .next (s.complete c calls) := by
  cases h with
  | construct p f =>
    simp only [exec, execConstruct, State.onUnconstructed_of hf hs, pinOperand_val]
  | setGpio p old =>
    simp only [exec, execSetGpio, State.onConstructed_of ⟨hf, hs⟩, pinOperand_val]
    rfl
  | setFreq f old =>
    simp only [exec, execSetFreq, State.onConstructed_of ⟨hf, hs⟩]
    rfl
  | on d hd old new hc =>
    subst hc
    simp only [exec, execOn, State.onConstructed_of ⟨hf, hs⟩, dutyOperand_ofNat hd, BitVec.ofNat_toNat,
      BitVec.setWidth_eq, enabledAfter]
  | off old new hc =>
    subst hc
    simp only [exec, execOff, State.onConstructed_of ⟨hf, hs⟩, enabledAfter]

/-- A command that its instance or its operand does not allow answers the faulted state. -/
theorem exec_of_turnedAway {i : Instr} {s : State} {slot : Option Controller} {cause : Cause} {info : FaultInfo}
    (hf : s.Running) (hs : s.inst[s.port]? = some slot) (h : TurnedAway i slot cause info) :
    exec i s = .next (s.takeFault cause info) := by
  cases h with
  | constructTwice p f c =>
    simp only [exec, execConstruct, State.onUnconstructed, State.atPort_of hf hs]
  | notConstructed i hi =>
    cases i with
    | construct p f => simp [Instr.mnemonic] at hi
    | setGpio p => simp only [exec, execSetGpio, State.onConstructed, State.atPort_of hf hs]
    | setFreq f => simp only [exec, execSetFreq, State.onConstructed, State.atPort_of hf hs]
    | on d => simp only [exec, execOn, State.onConstructed, State.atPort_of hf hs]
    | off => simp only [exec, execOff, State.onConstructed, State.atPort_of hf hs]
  | constructPin p f hp =>
    simp only [exec, execConstruct, State.onUnconstructed_of hf hs, pinOperand_eq_none.mpr hp]
  | setGpioPin p c hp =>
    simp only [exec, execSetGpio, State.onConstructed_of ⟨hf, hs⟩, pinOperand_eq_none.mpr hp]
  | onDuty d c hd =>
    simp only [exec, execOn, State.onConstructed_of ⟨hf, hs⟩, dutyOperand_eq_none.mpr hd]

/-- Everything a step that answers a next state can have done. -/
theorem step_next {s t : State} (h : step s = .next t) :
    (∃ rest, s.inputs = .reset :: rest ∧ t = s.assertReset rest) ∨
    ∃ k w rest, s.inputs = .command k w :: rest ∧ s.Running ∧ k < s.inst.length ∧
      ((∃ i, decode w = .command i ∧ exec i (s.present k rest) = .next t) ∨
        ∃ why, decode w = .reserved why ∧
          t = (s.present k rest).takeFault .illegalCommand (.word w)) := by
  unfold step fetch at h
  split at h <;> rename_i hx
  · cases h
  · left
    split at hx
    · cases hx
    · cases hx; cases h; exact ⟨_, ‹_›, rfl⟩
    · split at hx
      · cases hx
      · split at hx
        · split at hx <;> cases hx
        · cases hx
  · cases h
  · cases h
  · right
    split at hx
    · cases hx
    · cases hx
    · split at hx
      · cases hx
      · split at hx
        · split at hx
          · cases hx
          · cases hx; cases h
            exact ⟨_, _, _, ‹_›, ‹_›, ‹_›, .inr ⟨_, ‹_›, rfl⟩⟩
        · cases hx
  · right
    split at hx
    · cases hx
    · cases hx
    · split at hx
      · cases hx
      · split at hx
        · split at hx
          · cases hx
            exact ⟨_, _, _, ‹_›, ‹_›, ‹_›, .inl ⟨_, ‹_›, h⟩⟩
          · cases hx
        · cases hx

/-! ### Where `exec` ends -/

/-- A halted system executes nothing (60_exceptions.md rule R188). -/
theorem exec_halted {s : State} {r : FaultRecord} (h : s.fault = some r) (i : Instr) : exec i s = .fault .halted := by
  cases i <;>
    simp [exec, execConstruct, execSetGpio, execSetFreq, execOn, execOff, State.onConstructed, State.onUnconstructed,
      State.atPort, h]

/-- A port that does not exist is refused (70_reset_and_hazards.md rule R225). -/
theorem exec_noSuchPort {s : State} (hf : s.Running) (hs : s.inst[s.port]? = none) (i : Instr) :
    exec i s = .refused .noSuchPort := by
  have hf' : s.fault = none := hf
  cases i <;>
    simp [exec, execConstruct, execSetGpio, execSetFreq, execOn, execOff, State.onConstructed, State.onUnconstructed,
      State.atPort, hf', hs]

/-- A pin operand in range is some pin. -/
theorem exists_pin {p : Int} (h0 : ¬ (p < 0 ∨ 29 < p)) : ∃ q : Pin, p = q.val :=
  ⟨⟨p.toNat, by omega⟩, by simp only []; omega⟩

/-- A duty operand in range is some duty of at most 100. -/
theorem exists_duty {d : Int} (h0 : ¬ (d < 0 ∨ 100 < d)) : ∃ q : Duty, q.toNat ≤ 100 ∧ d = q.toNat := by
  obtain ⟨q, hq⟩ := Option.ne_none_iff_exists'.mp (mt dutyOperand_eq_none.mp h0)
  exact ⟨q, (dutyOperand_eq_some hq).2, (dutyOperand_eq_some hq).1⟩

/-- Whatever an instance holds, a command either has its effect or is turned away: nothing else stops it. -/
theorem effect_or_turnedAway (cfg : Config) (i : Instr) (slot : Option Controller) :
    (∃ c calls, Effect cfg i slot c calls) ∨ ∃ cause info, TurnedAway i slot cause info := by
  cases i with
  | construct p f =>
    cases slot with
    | some c => exact .inr ⟨_, _, .constructTwice p f c⟩
    | none =>
      by_cases h : p < 0 ∨ 29 < p
      · exact .inr ⟨_, _, .constructPin p f h⟩
      · obtain ⟨q, rfl⟩ := exists_pin h
        exact .inl ⟨_, _, .construct q f⟩
  | setGpio p =>
    cases slot with
    | none => exact .inr ⟨_, _, .notConstructed _ (by simp [Instr.mnemonic])⟩
    | some c =>
      by_cases h : p < 0 ∨ 29 < p
      · exact .inr ⟨_, _, .setGpioPin p c h⟩
      · obtain ⟨q, rfl⟩ := exists_pin h
        exact .inl ⟨_, _, .setGpio q c⟩
  | setFreq f =>
    cases slot with
    | none => exact .inr ⟨_, _, .notConstructed _ (by simp [Instr.mnemonic])⟩
    | some c => exact .inl ⟨_, _, .setFreq f c⟩
  | on d =>
    cases slot with
    | none => exact .inr ⟨_, _, .notConstructed _ (by simp [Instr.mnemonic])⟩
    | some c =>
      by_cases h : d < 0 ∨ 100 < d
      · exact .inr ⟨_, _, .onDuty d c h⟩
      · obtain ⟨q, hq, rfl⟩ := exists_duty h
        exact .inl ⟨_, _, .on q hq c _ rfl⟩
  | off =>
    cases slot with
    | none => exact .inr ⟨_, _, .notConstructed _ (by simp [Instr.mnemonic])⟩
    | some c => exact .inl ⟨_, _, .off c _ rfl⟩

/-- A running system executes every command at a port that exists. -/
theorem exec_answers {s : State} {slot : Option Controller} (hf : s.Running) (hs : s.inst[s.port]? = some slot)
    (i : Instr) : ∃ t, exec i s = .next t := by
  obtain ⟨c, calls, h⟩ | ⟨cause, info, h⟩ := effect_or_turnedAway s.config i slot
  · exact ⟨_, exec_of_effect hf hs h⟩
  · exact ⟨_, exec_of_turnedAway hf hs h⟩

/-! ### The instances after a completed command -/

theorem State.port_lt {s : State} {slot : Option Controller} (h : s.inst[s.port]? = some slot) :
    s.port < s.inst.length := (List.getElem?_eq_some_iff.mp h).1

theorem State.holds_complete {s : State} {slot : Option Controller} (h : s.inst[s.port]? = some slot)
    (c : Controller) (calls : List Call) : (s.complete c calls).Holds s.port c := by
  show (s.inst.set s.port (some c))[s.port]? = _
  simp [State.port_lt h]

theorem State.inst_complete_of_ne (s : State) (c : Controller) (calls : List Call) {k : Nat} (h : k ≠ s.port) :
    (s.complete c calls).inst[k]? = s.inst[k]? := by
  show (s.inst.set s.port (some c))[k]? = _
  simp [h.symm]

/-- After a completed command an instance holds what the command gave it, or what it held before. -/
theorem State.holds_of_complete {s : State} {c d : Controller} {calls : List Call} {k : Nat}
    (h : (s.complete c calls).Holds k d) : (k = s.port ∧ d = c) ∨ (k ≠ s.port ∧ s.Holds k d) := by
  by_cases hk : k = s.port
  · subst hk
    have h' : (s.inst.set s.port (some c))[s.port]? = some (some d) := h
    rw [List.getElem?_set] at h'
    simp only [if_true] at h'
    split at h'
    · cases h'; exact .inl ⟨rfl, rfl⟩
    · cases h'
  · exact .inr ⟨hk, (State.inst_complete_of_ne s c calls hk).symm.trans h⟩

/-- After reset no instance holds anything (10_state.md rule R45). -/
theorem State.not_holds_assertReset (s : State) (rest : List HostInput) (k : Nat) (c : Controller) :
    ¬ (s.assertReset rest).Holds k c := by
  simp [List.getElem?_replicate]

end Sys2Proof.Machine
end

