-- ==== Sys2Proof/Laws/FreqConv.lean ====
section
/-! SUPPORT. The primitives of `NUM = EXACT` (41_frequency_conversion.md rule R111) as ordinary rational arithmetic. -/

namespace Sys2Proof.Machine

open Sys2Proof

/-- `Clamp` as a maximum of a minimum (R118). -/
theorem clamp_eq_max_min {α : Type} [LinearOrder α] {lo hi : α} (h : lo ≤ hi) (x : α) :
    clamp lo hi x = max lo (min hi x) := by
  unfold clamp
  split
  · exact (max_eq_left ((min_le_right _ _).trans (by order))).symm
  · split
    · rw [min_eq_left (by order), max_eq_right h]
    · rw [min_eq_right (by order), max_eq_right (by order)]

/-- A clamped value lies between its bounds, `+inf` included (R118). -/
theorem clampExt_mem {α : Type} [LinearOrder α] {lo hi : α} (h : lo ≤ hi) (x : Ext α) :
    lo ≤ clampExt lo hi x ∧ clampExt lo hi x ≤ hi := by
  cases x with
  | fin x =>
    simp only [clampExt, clamp_eq_max_min h]
    exact ⟨le_max_left _ _, max_le h (min_le_left _ _)⟩
  | posInf => exact ⟨h, le_rfl⟩

@[simp] theorem Num.exact_cvt (n : Nat) : Num.exact.cvt n = (n : Rat) := rfl

@[simp] theorem Num.exact_fmul (a b : Rat) : Num.exact.fmul a b = a * b := rfl

/-- A zero denominator gives `+inf` (R116). -/
@[simp] theorem Num.exact_fdiv_zero (a : Rat) : Num.exact.fdiv a 0 = .posInf := by simp [Num.exact]

theorem Num.exact_fdiv {b : Rat} (h : b ≠ 0) (a : Rat) : Num.exact.fdiv a b = .fin (a / b) := by
  simp [Num.exact, h]

@[simp] theorem Num.exact_clampDiv_fin (q : Rat) : Num.exact.clampDiv (.fin q) = max 1 (min 255 q) :=
  clamp_eq_max_min (by norm_num) q

@[simp] theorem Num.exact_clampDiv_posInf : Num.exact.clampDiv .posInf = 255 := rfl

@[simp] theorem Num.exact_toWrap_fin (q : Rat) : Num.exact.toWrap (.fin q) = max 2 (min 65535 (roundHA q)) :=
  clamp_eq_max_min (by norm_num) _

@[simp] theorem Num.exact_toWrap_posInf : Num.exact.toWrap .posInf = 65535 := rfl

end Sys2Proof.Machine
end

