-- ==== Sys2Proof/Laws/PerInstr.lean ====
section
/-! SUPPORT. Per-instruction laws: the family EncodeFields says which fields the word of each command has
(30_encoding.md rule R80). -/

namespace Sys2Proof.Laws.EncodeFields

open Sys2Proof

/-- The word of a command holds its operation code, its field A and its field F, each at its place. -/
def Statement (i : Instr) : Prop :=
  opField (encode i) = i.mnemonic.opcode ∧ aField (encode i) = i.aBits ∧ fField (encode i) = i.fBits

/-- What every lemma below rests on. -/
theorem fields_of_encode (i : Instr) : Statement i := by simp [Statement, encode]

theorem construct (pin : Int) (freq : Freq) : Statement (.construct pin freq) := fields_of_encode _

theorem setGpio (pin : Int) : Statement (.setGpio pin) := fields_of_encode _

theorem setFreq (freq : Freq) : Statement (.setFreq freq) := fields_of_encode _

theorem on (duty : Int) : Statement (.on duty) := fields_of_encode _

theorem off : Statement .off := fields_of_encode _

end Sys2Proof.Laws.EncodeFields
end

