-- ==== Sys2Proof/Machine/Assembly.lean ====
section
/-! DEFINITION. The assembly of 30_encoding.md rule R89: one command per line, `[k] MNEMONIC operands ; comment`. It is
the host's notation for what it presents; nothing in the machine reads it. There are no pseudo-instructions (R90). -/

namespace Sys2Proof.Machine

open Sys2Proof

/-- What a line is made of. -/
inductive AsmToken where
  | openBracket
  | closeBracket
  | comma
  | word (text : List Char)
  deriving DecidableEq, Repr

/-- The token of a character that stands by itself. -/
def asmMark (c : Char) : Option AsmToken :=
  if c = '[' then some .openBracket else if c = ']' then some .closeBracket else if c = ',' then some .comma else none

/-- A word in front of tokens already read; an empty word is no token. -/
def asmWord (text : List Char) (tokens : List AsmToken) : List AsmToken :=
  if text.isEmpty then tokens else .word text :: tokens

/-- One character read in front of what follows it: the word being read, and the tokens after it. -/
def asmRead (c : Char) (after : List Char × List AsmToken) : List Char × List AsmToken :=
  match asmMark c with
  | some mark => ([], mark :: asmWord after.1 after.2)
  | none => if c = ' ' || c = '\t' then ([], asmWord after.1 after.2) else (c :: after.1, after.2)

/-- The tokens of a line, its comment dropped. -/
def asmTokens (line : List Char) : List AsmToken :=
  let read := (line.takeWhile (· ≠ ';')).foldr asmRead ([], [])
  asmWord read.1 read.2

/-- The value of a decimal digit. -/
def asmDigit (c : Char) : Option Nat := if '0' ≤ c && c ≤ '9' then some (c.toNat - '0'.toNat) else none

/-- A decimal number. -/
def asmNat : List Char → Option Nat
  | [] => none
  | digits => digits.foldlM (fun n c => (asmDigit c).map (10 * n + ·)) 0

/-- A decimal integer. -/
def asmInt : List Char → Option Int
  | '-' :: digits => (asmNat digits).map (fun n => -(n : Int))
  | digits => (asmNat digits).map (fun n => (n : Int))

/-- A pin or duty: -128 to 127, anything else is rejected (R89). -/
def asmOperandA (text : List Char) : Option Int := (asmInt text).filter fitsFieldA

/-- A frequency: 0 to 4294967295 (R89). -/
def asmOperandF (text : List Char) : Option Freq :=
  ((asmNat text).filter (· < 2 ^ 32)).map (BitVec.ofNat 32)

/-- The mnemonic of a word; upper case only (R89). -/
def asmMnemonic (text : List Char) : Option Mnemonic :=
  [Mnemonic.construct, .setGpio, .setFreq, .on, .off].find? (fun m => m.name.toList == text)

/-- The command of a line's tokens after its port. -/
def asmCommand : List AsmToken → Option Instr
  | .word m :: operands =>
    match asmMnemonic m, operands with
    | some .construct, [.word pin, .comma, .word freq] =>
      match asmOperandA pin, asmOperandF freq with
      | some p, some f => some (.construct p f)
      | _, _ => none
    | some .setGpio, [.word pin] => (asmOperandA pin).map .setGpio
    | some .setFreq, [.word freq] => (asmOperandF freq).map .setFreq
    | some .on, [.word duty] => (asmOperandA duty).map .on
    | some .off, [] => some .off
    | _, _ => none
  | _ => none

/-- One line: the port and the word. The port may be left out when there is one instance (R89). -/
def assemble (nInst : Nat) (line : List Char) : Option (Nat × CommandWord) :=
  match asmTokens line with
  | .openBracket :: .word k :: .closeBracket :: rest =>
    match asmNat k, asmCommand rest with
    | some port, some i => some (port, encode i)
    | _, _ => none
  | tokens => if nInst = 1 then (asmCommand tokens).map (fun i => (0, encode i)) else none

/-- A command as a line of assembly (R89). -/
def Instr.toAsm (k : Nat) (i : Instr) : String :=
  let port := "[" ++ toString k ++ "] " ++ i.mnemonic.name
  match i with
  | .construct pin freq => port ++ " " ++ toString pin ++ ", " ++ toString freq.toNat
  | .setGpio pin => port ++ " " ++ toString pin
  | .setFreq freq => port ++ " " ++ toString freq.toNat
  | .on duty => port ++ " " ++ toString duty
  | .off => port

end Sys2Proof.Machine
end

