-- ==== Sys2Proof/Tests/Slice0.lean ====
section
/-! SUPPORT. Tests on fixed values. The expected values are the vectors of spec/95_test_vectors.md and the worked
examples of the rules, named in each comment; and a witness for the hypotheses of each statement. -/

namespace Sys2Proof.Tests

-- one kernel evaluation at a time: side by side they take more memory than a build has
set_option Elab.async false

open Sys2Proof Sys2Proof.Machine

/-! ### Small states -/

/-- Program P1 after its first line: pin 15, slice 7, channel B, 50 Hz. -/
def p1Controller : Controller := ⟨15, 7, .b, 50#32, 500000 / 13107, 65535#16, 0#7, false⟩

/-- Program P1 after its second line. -/
def p1On : Controller := { p1Controller with dutyCyclePercent := 25#7, enabled := true }

/-- The image of program P1 after its first line. -/
def p1Image : Image :=
  (((((Image.unwritten.setDiv 7 (500000 / 13107)).setTop 7 65535#16).setCc 7 .b 0#16).setEn 7 false).setFunc 15 .sio).setOut
    15 false

/-- Two instances, the first holding `c`. -/
def holding (c : Controller) (im : Image) : State := { State.reset with inst := [some c, none], image := im }

/-- The state after program P1's first line (without its trace). -/
def p1State : State := holding p1Controller p1Image

/-- The state after program P1's second line (without its trace). -/
def p1StateOn : State := holding p1On (((p1Image.setCc 7 .b 16384#16).setFunc 15 .pwm).setEn 7 true)

/-- A state halted by program P3's fault. -/
def haltedState : State := { p1State with fault := some ⟨.invalidDuty, 0, .operand 101⟩ }

/-- The next state of an outcome, if it is one. -/
def after (o : Host.Outcome State Fault Refusal) : Option State :=
  match o with
  | .next t => some t
  | _ => none

/-- One word presented at port 0. -/
def present (s : State) (w : Nat) : Option State := after (step (s.withFetchWord 48 w))

/-! ### Well-formedness: one ill-formed term per check (30_encoding.md R89) -/

theorem test_construct_pin_below_field : (Instr.construct (-129) 0#32).wellFormed = false := by decide
theorem test_construct_pin_above_field : (Instr.construct 128 0#32).wellFormed = false := by decide
theorem test_setGpio_pin_outside_field :
    (Instr.setGpio 128).wellFormed = false ∧ (Instr.setGpio (-129)).wellFormed = false := by decide
theorem test_on_duty_outside_field :
    (Instr.on 128).wellFormed = false ∧ (Instr.on (-129)).wellFormed = false := by decide
theorem test_field_ends_are_wellFormed :
    (Instr.on (-128)).wellFormed = true ∧ (Instr.setGpio 127).wellFormed = true := by decide

/-! ### Decoding: words of section 5 of the vectors, written out as OP, A, F from R80 and R82 -/

theorem test_decode_construct_bits :
    decode (0b00000001#8 ++ 0b00001111#8 ++ 0x00000032#32) = .command (.construct 15 50#32) := by decide
theorem test_decode_setGpio_bits :
    decode (0b00000010#8 ++ 0b00010001#8 ++ 0x00000000#32) = .command (.setGpio 17) := by decide
theorem test_decode_setFreq_bits :
    decode (0b00000011#8 ++ 0b00000000#8 ++ 0x00004E20#32) = .command (.setFreq 20000#32) := by decide
theorem test_decode_on_bits :
    decode (0b00000100#8 ++ 0b01100100#8 ++ 0x00000000#32) = .command (.on 100) := by decide
theorem test_decode_off_bits :
    decode (0b00000101#8 ++ 0b00000000#8 ++ 0x00000000#32) = .command .off := by decide
theorem test_decode_signed_fields :
    decode 0x018000000000#48 = .command (.construct (-128) 0#32) ∧
    decode 0x027F00000000#48 = .command (.setGpio 127) ∧
    decode 0x04FF00000000#48 = .command (.on (-1)) ∧
    decode 0x011D02FAF080#48 = .command (.construct 29 50000000#32) := by decide
theorem test_decode_reserved_words :
    decode 0x000000000000#48 = .reserved .unassignedOp ∧ decode 0xFF0000000000#48 = .reserved .unassignedOp ∧
    decode 0x021100000001#48 = .reserved .nonzeroF ∧ decode 0x030100004E20#48 = .reserved .nonzeroA ∧
    decode 0x041900000032#48 = .reserved .nonzeroF ∧ decode 0x050100000000#48 = .reserved .nonzeroA ∧
    decode 0x050000000001#48 = .reserved .nonzeroF := by decide
theorem test_encode_words :
    encode (.construct 15 50#32) = 0x010F00000032#48 ∧ encode (.setGpio 17) = 0x021100000000#48 ∧
    encode (.setFreq 20000#32) = 0x030000004E20#48 ∧ encode (.on (-1)) = 0x04FF00000000#48 ∧
    encode .off = 0x050000000000#48 := by decide
theorem test_decodeTableWord : decodeTableWord 48 0x041900000000 = some (.on 25) := by decide

/-! ### Assembly (R89) -/

theorem test_assemble_construct :
    assemble 2 "[0] CONSTRUCT 15, 50 ; example".toList = some (0, 0x010F00000032#48) := by decide
theorem test_assemble_rejects :
    assemble 2 "[1] ON 128".toList = none ∧ assemble 2 "OFF".toList = none ∧ assemble 2 "[0] off".toList = none ∧
    assemble 1 "ON -1".toList = some (0, 0x04FF00000000#48) := by decide
theorem test_toAsm : Instr.toAsm 0 (.construct 15 50#32) = "[0] CONSTRUCT 15, 50" := by decide

/-! ### Topology (40_topology.md R102, R104, R106) -/

theorem test_topo_examples : topo 15 = (7, .b) ∧ topo 16 = (0, .a) ∧ topo 29 = (6, .b) := by decide
theorem test_topo_is_wiring : ∀ p : Pin,
    topoWiring (BitVec.ofNat 5 p.val) = (BitVec.ofNat 3 (topo p).1.val, channelBit (topo p).2) := by decide

/-! ### The calculator: rows of section 3 and 4 of the vectors -/

theorem test_freqConv_bands :
    freqConv 125000000 0 = (255, 65535) ∧ freqConv 125000000 7 = (255, 65535) ∧
    freqConv 125000000 8 = (3125000 / 13107, 65535) ∧ freqConv 125000000 1907 = (25000000 / 24995049, 65535) ∧
    freqConv 125000000 1908 = (1, 65514) ∧ freqConv 125000000 38000 = (62500 / 62491, 3289) := by decide +kernel
theorem test_freqConv_ties_and_floor :
    freqConv 125000000 3200 = (1, 39063) ∧ freqConv 125000000 50000000 = (1, 3) ∧
    freqConv 125000000 50000001 = (62500000 / 50000001, 2) ∧ freqConv 125000000 4294967295 = (1, 2) := by
  decide +kernel
theorem test_freqConv_other_clocks :
    freqConv 4294967295 1000 = (65537 / 1000, 65535) ∧ freqConv 12000000 1000 = (1, 12000) ∧
    freqConv 1 1 = (1, 2) := by decide +kernel
theorem test_provisionalDiv : provisionalDiv Num.exact 125000000 440 = 625000 / 144177 := by decide +kernel
theorem test_level_vectors :
    levelNat 65535 25 = 16384 ∧ levelNat 65535 50 = 32768 ∧ levelNat 417 50 = 209 ∧ levelNat 3 17 = 1 ∧
    levelNat 2 24 = 0 ∧ levelNat 2 25 = 1 ∧ levelNat 2 75 = 2 ∧ level 65535#16 75#7 = 49151#16 := by decide

/-! ### One step each: programs P1 to P7 and the fault vectors -/

theorem test_construct_p1 :
    (present State.reset 0x010F00000032).map (fun t => (t.inst, t.image, t.responses))
      = some ([some p1Controller, none], p1Image, [.ok]) := by decide +kernel
theorem test_construct_p1_trace :
    (present State.reset 0x010F00000032).map (fun t => t.trace.map Prod.snd)
      = some [.gpioInit 15, .gpioSetFunctionPwm 15, .setClkDiv 7 (500000 / 13107), .setPeriod 7 65535#16,
          .setLevel 7 .b 0#16, .setSliceEnabled 7 false, .gpioInit 15, .gpioSetOutput 15 false] := by decide +kernel
theorem test_on_p1 :
    (present p1State 0x041900000000).map (fun t => (t.image.cc 7 .b, t.image.pinDrive 15, t.trace.length))
      = some (some 16384#16, .pwm 7 .b, 3) := by decide
theorem test_on_duty_refused :
    (present p1State 0x046500000000).map (fun t => (t.fault, t.trace, t.responses))
      = some (some ⟨.invalidDuty, 0, .operand 101⟩, [], [.fault .invalidDuty]) := by decide
theorem test_off_p1 :
    (present p1StateOn 0x050000000000).map (fun t => (t.inst[0]?, t.image.pinDrive 15, t.image.cc 7 .b))
      = some (some (some { p1On with enabled := false }), .low, some 16384#16) := by decide +kernel
theorem test_off_reserved_word :
    (present p1State 0x050100000000).map State.fault
      = some (some ⟨.illegalCommand, 0, .word 0x050100000000#48⟩) := by decide
theorem test_setGpio_trace :
    (present p1StateOn 0x021100000000).map (fun t => t.trace.map Prod.snd)
      = some [.setSliceEnabled 7 false, .gpioDeinit 15, .gpioInit 17, .gpioSetFunctionPwm 17,
          .setClkDiv 0 (500000 / 13107), .setPeriod 0 65535#16, .setLevel 0 .b 16384#16,
          .gpioSetFunctionPwm 17, .setSliceEnabled 0 true] := by decide +kernel
theorem test_setGpio_refused :
    (present p1State 0x021E00000000).map State.fault = some (some ⟨.invalidPin, 0, .operand 30⟩) := by decide
theorem test_setFreq_enabled :
    (present p1StateOn 0x030000004E20).map (fun t => (t.image.div 7, t.image.top 7, t.image.cc 7 .b, t.image.en 7))
      = some (some 1, some 6250#16, some 1563#16, some true) := by decide +kernel
theorem test_setFreq_zero :
    (present p1State 0x030000000000).map (fun t => (t.fault, t.image.div 7, t.image.top 7))
      = some (none, some 255, some 65535#16) := by decide +kernel
theorem test_priority_f9_f10_f11 :
    (present State.reset 0x046500000001).map State.fault = some (some ⟨.illegalCommand, 0, .word 0x046500000001#48⟩) ∧
    (present State.reset 0x046500000000).map State.fault = some (some ⟨.sequenceError, 0, .word 0x046500000000#48⟩) ∧
    (present p1State 0x011E00000001).map State.fault = some (some ⟨.sequenceError, 0, .word 0x011E00000001#48⟩) := by
  decide
theorem test_halted_f12 : present haltedState 0x050000000000 = none := by decide
theorem test_reset_from_halt : after (step { haltedState with inputs := [.reset] }) = some State.reset := by
  decide
theorem test_statuses : (Response.fault .sequenceError).status = 4#3 ∧ Response.ok.status = 0#3 := by decide
theorem test_pwmShape :
    p1StateOn.image.pwmShape 7 .b = .about (16384 / 65535) ∧ p1Image.pwmShape 7 .b = .alwaysLow ∧
    (p1Image.setCc 7 .b 65535#16).pwmShape 7 .b = .alwaysHigh ∧ p1Image.pwmShape 7 .a = .unspecified := by
  decide +kernel

/-! ### Witnesses: the hypotheses of each statement are met together, clause by clause -/

/-- A state that presents one word at port 0. -/
def presenting (s : State) (w : CommandWord) : State := { s with inputs := [.command 0 w] }

/-- What a small state holds. -/
theorem holds_holding {c d : Controller} {im : Image} {k : Nat} (h : (holding c im).Holds k d) : k = 0 ∧ d = c := by
  match k with
  | 0 => cases h; exact ⟨rfl, rfl⟩
  | 1 => cases h
  | _ + 2 => cases h

theorem p1_ready : p1State.Ready p1Controller := ⟨rfl, rfl⟩
theorem p1On_ready : p1StateOn.Ready p1On := ⟨rfl, rfl⟩
theorem reset_port_free : State.reset.Running ∧ State.reset.inst[State.reset.port]? = some none := ⟨rfl, rfl⟩

theorem p1Controller_wf : p1Controller.Wf 125000000 := by decide +kernel

/-- P1's state, whatever it is about to execute, is well formed. -/
theorem p1_attributesWf (w : CommandWord) : (presenting p1State w).AttributesWf := by
  refine ⟨show (1 : Nat) ≤ 125000000 by decide, fun k c h => ?_⟩
  obtain ⟨_, rfl⟩ := holds_holding (im := p1Image) h
  exact p1Controller_wf

theorem p1_exclusive (w : CommandWord) (k : Nat) : (presenting p1State w).Exclusive k := by
  intro c hc j d hj hd
  exact absurd ((holds_holding (im := p1Image) hd).1.trans (holds_holding (im := p1Image) hc).1.symm) hj

theorem p1_agrees : p1Controller.AgreesWith p1Image := by
  unfold Controller.AgreesWith Controller.TimingIn Controller.OutputIn
  decide +kernel

theorem p1On_agrees : p1On.AgreesWith p1StateOn.image := by
  unfold Controller.AgreesWith Controller.TimingIn Controller.OutputIn
  decide +kernel

/-- One instance only. -/
def oneInstance : State := { p1State with inst := [some p1Controller], inputs := [.command 0 0x050000000000#48] }

/-- Two instances on slice 7: instance 0 on pin 15, instance 1 on pin 14, enabled. -/
def sharing : State :=
  { p1StateOn with
    inst := [some p1On, some { p1On with pin := 14, channel := .a }]
    image := p1StateOn.image.setFunc 14 .pwm }

theorem witness_topology_halves : (15 : Pin).val ≤ 15 ∧ 16 ≤ (16 : Pin).val ∧ (topo 15).1 = 7 ∧ (topo 16).1 = 0 := by
  decide
theorem witness_roundHalf_tie : 0 < 2 ∧ roundHA ((1 : Nat) / (2 : Nat)) = 1 ∧ roundHA ((5 : Nat) / (2 : Nat)) = 3 := by
  decide +kernel
theorem witness_closedForm_where_bands_meet :
    freqConv 16711425 1 = (255, 65535) ∧ freqConv 65535 1 = (1, 65535) ∧ freqConv 65534 1 = (1, 65534) ∧
    freqConv 1 0 = (255, 65535) := by decide +kernel
theorem witness_bandM : 65535 * 8 ≤ 125000000 ∧ 125000000 ≤ 16711425 * 8 ∧
    achievedHz 125000000 (freqConv 125000000 8).1 (freqConv 125000000 8).2 = 8 := by decide +kernel
theorem witness_bandH_both_sides :
    (125000000 < 65535 * 38000 ∧ 3 * 38000 ≤ 2 * 125000000 ∧ 3289 = (2 * 125000000 + 38000) / (2 * 38000) ∧
      3289 * 38000 ≤ 125000000) ∧
    (125000000 < 65535 * 300000 ∧ 3 * 300000 ≤ 2 * 125000000 ∧ 417 = (2 * 125000000 + 300000) / (2 * 300000) ∧
      125000000 < 417 * 300000) := by decide
theorem witness_onePercent_ends :
    (freqConv 125000000 8).2 = 65535 ∧ (freqConv 125000000 2576788).2 = 49 ∧ (freqConv 125000000 2576789).2 = 49 := by
  decide +kernel
theorem witness_level_ends : levelNat 2 100 = 2 ∧ levelNat 65535 100 = 65535 ∧ levelNat 65535 0 = 0 := by decide
theorem witness_wellFormed_ends :
    (Instr.construct (-128) 0xFFFFFFFF#32).wellFormed = true ∧ (Instr.on 127).wellFormed = true := by decide
theorem witness_table_rows_covered :
    opcodeTable.map (fun r => r.covers r.matchWord) = [true, true, true, true, true] ∧
    opcodeTable.map (fun r => r.covers 0#48) = [false, false, false, false, false] := by decide
theorem witness_step_runs :
    (presenting p1State 0x050000000000#48).inputs = [.command 0 0x050000000000#48] ∧
    (presenting p1State 0x050000000000#48).fault = none ∧ 0 < (presenting p1State 0x050000000000#48).inst.length ∧
    decode 0x050000000000#48 = .command .off := by decide
theorem witness_step_reserved :
    (presenting p1State 0#48).fault = none ∧ decode 0#48 = .reserved .unassignedOp := by decide
theorem witness_no_step :
    (presenting haltedState 0#48).fault = some ⟨.invalidDuty, 0, .operand 101⟩ ∧ State.reset.inputs = [] ∧
    ({ State.reset with inputs := [.command 2 0#48] } : State).inst.length ≤ 2 := by decide
theorem witness_reset_input :
    ({ haltedState with inputs := [.reset] } : State).inputs = [.reset] ∧ haltedState.fault ≠ none := by decide
theorem witness_constructs :
    State.reset.Running ∧ State.reset.inst[State.reset.port]? = some none ∧ topo 15 = (7, .b) ∧
    freqConv State.reset.config.S (50#32).toNat = (500000 / 13107, 65535) := by decide +kernel
theorem witness_setGpio_both_enables :
    p1State.Ready p1Controller ∧ p1Controller.enabled = false ∧ p1StateOn.Ready p1On ∧ p1On.enabled = true ∧
    topo 17 = (0, .b) := ⟨p1_ready, rfl, p1On_ready, rfl, by decide⟩
theorem witness_setFreq :
    p1StateOn.Ready p1On ∧ freqConv p1StateOn.config.S (20000#32).toNat = (1, 6250) :=
  ⟨p1On_ready, by decide +kernel⟩
theorem witness_on_ends : p1State.Ready p1Controller ∧ (0 : Nat) ≤ 100 ∧ (100 : Nat) ≤ 100 :=
  ⟨p1_ready, by decide, by decide⟩
theorem witness_off : p1StateOn.Ready p1On := p1On_ready
theorem witness_pin_faults_and_acceptance :
    (after (exec (.construct (-1) 0#32) State.reset)).isSome ∧ (after (exec (.construct 29 0#32) State.reset)).isSome ∧
    ((after (exec (.construct 30 0#32) State.reset)).map State.fault) = some (some ⟨.invalidPin, 0, .operand 30⟩) ∧
    ((after (exec (.setGpio 0) p1State)).map State.fault) = some none := by decide
theorem witness_duty_faults_and_acceptance :
    ((after (exec (.on (-1)) p1State)).map State.fault) = some (some ⟨.invalidDuty, 0, .operand (-1)⟩) ∧
    ((after (exec (.on 100) p1State)).map State.fault) = some none ∧
    ((after (exec (.on 0) p1State)).map State.fault) = some none := by decide
theorem witness_faultEntry (s : State) :
    ∃ enter : Cause → FaultInfo → State, ∀ cause info, enter cause info =
      { s with fault := some ⟨cause, s.port, info⟩, responses := s.responses ++ [.fault cause] } := ⟨_, fun _ _ => rfl⟩
theorem witness_sequenceErrors : p1State.Holds p1State.port p1Controller ∧
    State.reset.inst[State.reset.port]? = some none ∧ (Instr.on 50).mnemonic ≠ .construct := ⟨rfl, rfl, by decide⟩
theorem witness_priority_clauses :
    (present State.reset 0x011E00000001).map State.fault = some (some ⟨.invalidPin, 0, .operand 30⟩) ∧
    (present p1State 0x027F00000000).map State.fault = some (some ⟨.invalidPin, 0, .operand 127⟩) ∧
    (present p1State 0x04FF00000000).map State.fault = some (some ⟨.invalidDuty, 0, .operand (-1)⟩) := by
  decide
theorem witness_fault_step : ∃ t, (presenting p1State 0#48).Running ∧ step (presenting p1State 0#48) = .next t ∧
    t.fault ≠ none := ⟨_, rfl, rfl, by decide⟩
theorem witness_construct_frame : ∃ t, exec (.construct 15 50#32) State.reset = .next t ∧ t.fault = none := ⟨_, rfl, rfl⟩
theorem witness_setGpio_frame : ∃ t, exec (.setGpio 17) p1StateOn = .next t ∧ t.fault = none := ⟨_, rfl, rfl⟩
theorem witness_setFreq_frame : ∃ t, exec (.setFreq 50#32) p1State = .next t ∧ t.fault = none := ⟨_, rfl, rfl⟩
theorem witness_onOff_frame : (∃ t, exec (.on 25) p1State = .next t ∧ t.fault = none) ∧
    ∃ t, exec .off p1StateOn = .next t ∧ t.fault = none := ⟨⟨_, rfl, rfl⟩, ⟨_, rfl, rfl⟩⟩
theorem witness_otherInstances : [some p1Controller, some p1On].length = p1State.inst.length ∧
    [some p1Controller, some p1On][p1State.port]? = p1State.inst[p1State.port]? := ⟨rfl, rfl⟩
theorem witness_neverRead : (∃ t, step (presenting p1State 0x050000000000#48) = .next t) ∧
    step (presenting haltedState 0#48) = .fault .halted ∧ step State.reset = .refused .noCommand := ⟨⟨_, rfl⟩, rfl, rfl⟩
theorem witness_intermediate : p1StateOn.Ready p1On ∧ p1On.enabled = true := ⟨p1On_ready, rfl⟩
theorem witness_waveform : p1State.Ready p1Controller ∧ p1Controller.TopologyHolds ∧
    p1State.image.top p1Controller.slice = some p1Controller.wrap ∧ 2 ≤ p1Controller.wrap.toNat :=
  ⟨p1_ready, by decide, by decide, by decide⟩
theorem witness_moves : p1StateOn.Ready p1On ∧ (17 : Pin) ≠ p1On.pin ∧ (topo 17).1 ≠ p1On.slice :=
  ⟨p1On_ready, by decide, by decide⟩
theorem witness_samePin : p1State.Ready p1Controller ∧ p1Controller.TopologyHolds ∧ p1Controller.AgreesWith p1State.image ∧
    p1StateOn.Ready p1On ∧ p1On.TopologyHolds ∧ p1On.AgreesWith p1StateOn.image :=
  ⟨p1_ready, by decide, p1_agrees, p1On_ready, by decide, p1On_agrees⟩
theorem witness_sharing : sharing.Ready p1On ∧ 1 ≠ sharing.port ∧
    sharing.Holds 1 { p1On with pin := 14, channel := .a } ∧ (14 : Pin) ≠ p1On.pin ∧
    ({ p1On with pin := 14, channel := .a } : Controller).TopologyHolds ∧ sharing.image.func 14 = some .pwm :=
  ⟨⟨rfl, rfl⟩, by decide, rfl, by decide, by decide, by decide⟩
theorem witness_attributes : (presenting p1State 0x050000000000#48).AttributesWf ∧
    ∃ t, step (presenting p1State 0x050000000000#48) = .next t := ⟨p1_attributesWf _, _, rfl⟩
theorem witness_traceAgrees : (presenting State.reset 0x010F00000032#48).TraceAgrees ∧
    ∃ t, step (presenting State.reset 0x010F00000032#48) = .next t ∧ t.fault = none :=
  ⟨⟨rfl, fun _ h => (by cases h)⟩, _, rfl, rfl⟩
theorem witness_exclusive : ∃ t, (presenting p1State 0x050000000000#48).AttributesWf ∧
    (presenting p1State 0x050000000000#48).Exclusive 0 ∧ t.Exclusive 0 ∧
    (∀ c, (presenting p1State 0x050000000000#48).Holds 0 c → c.AgreesWith (presenting p1State 0x050000000000#48).image) ∧
    step (presenting p1State 0x050000000000#48) = .next t ∧ t.Holds 0 p1Controller := by
  refine ⟨_, p1_attributesWf _, p1_exclusive _ 0, ?_, ?_, rfl, rfl⟩
  · intro c _ j d hj hd
    match j with
    | 0 => exact absurd rfl hj
    | 1 => cases hd
    | _ + 2 => cases hd
  · intro c h
    obtain ⟨_, rfl⟩ := holds_holding (im := p1Image) h
    exact p1_agrees
theorem witness_oneInstance : oneInstance.inst.length = 1 ∧ oneInstance.AttributesWf ∧
    (∀ c, oneInstance.Holds 0 c → c.AgreesWith oneInstance.image) ∧ ∃ t, step oneInstance = .next t := by
  refine ⟨rfl, ⟨by decide, fun k c h => ?_⟩, fun c h => ?_, _, rfl⟩
  · match k with
    | 0 => cases h; exact p1Controller_wf
    | _ + 1 => cases h
  · cases h; exact p1_agrees
theorem witness_answers : (presenting State.reset 0#48).AnswersAgree ∧ (presenting State.reset 0#48).FaultWf ∧
    ∃ t, step (presenting State.reset 0#48) = .next t := ⟨⟨0, rfl⟩, fun _ h => (by cases h), _, rfl⟩
theorem witness_config : Config.reference.Wf := by decide
theorem witness_constructedUntilReset : ∃ t, step (presenting p1State 0x050000000000#48) = .next t ∧
    (∀ rest, (presenting p1State 0x050000000000#48).inputs ≠ .reset :: rest) ∧
    (presenting p1State 0x050000000000#48).Holds 0 p1Controller := ⟨_, rfl, fun _ h => (by cases h), rfl⟩
theorem witness_run : (presenting State.reset 0#48).Running ∧ (presenting State.reset 0#48).PortsExist := by
  refine ⟨rfl, fun k w h => ?_⟩
  cases h with
  | head => decide
  | tail _ h => cases h

end Sys2Proof.Tests
end

/-! The attributes of a controller (10_state.md rules R22 to R31): every command's effect leaves a well-formed controller,
so every step keeps every constructed controller well formed. -/

namespace Sys2Proof.Machine

open Sys2Proof

/-! ### The ranges of the frequency conversion -/

/-- Step 3 clamps the divider, whatever the quotient (R114). -/
theorem freqConv_divider_mem (S f : Nat) : 1 ≤ (freqConv S f).1 ∧ (freqConv S f).1 ≤ 255 :=
  clampExt_mem (α := Rat) (by norm_num) _

/-- Step 2 clamps the wrap, whatever the quotient (R113). -/
theorem freqConv_wrap_mem (S f : Nat) : 2 ≤ (freqConv S f).2 ∧ (freqConv S f).2 ≤ 65535 :=
  clampExt_mem (α := Nat) (by norm_num) _

/-- The 16-bit attribute holds the exact wrap (R27). -/
theorem toNat_ofNat_freqConv_wrap (S f : Nat) :
    (BitVec.ofNat 16 (freqConv S f).2).toNat = (freqConv S f).2 := by
  have hle : (freqConv S f).2 ≤ 65535 := (freqConv_wrap_mem S f).2
  rw [BitVec.toNat_ofNat]
  exact Nat.mod_eq_of_lt (by omega)

/-! ### A completed command leaves a well-formed controller -/

theorem Controller.wf_fresh (cfg : Config) (p : Pin) (f : Freq) : (Controller.fresh cfg p f).Wf cfg.S :=
  ⟨rfl, Prod.ext rfl (toNat_ofNat_freqConv_wrap _ _), by simp⟩

/-- Binding another pin looks its topology up and keeps the timing and the duty (R145). -/
theorem Controller.Wf.bind {c : Controller} {S : Nat} (h : c.Wf S) (p : Pin) : (c.bind p).Wf S :=
  ⟨rfl, h.2⟩

/-- A new frequency is converted and the pin and the duty stay (R146). -/
theorem Controller.Wf.retune {c : Controller} {cfg : Config} (h : c.Wf cfg.S) (f : Freq) : (c.retune cfg f).Wf cfg.S := by
  obtain ⟨htopo, -, hduty⟩ := h
  exact ⟨htopo, Prod.ext rfl (toNat_ofNat_freqConv_wrap _ _), hduty⟩

/-- Every command's effect keeps the attributes well formed; CONSTRUCT needs nothing of the state before it. -/
theorem Effect.wf {cfg : Config} {i : Instr} {slot : Option Controller} {c : Controller} {calls : List Call}
    (h : Effect cfg i slot c calls) (hold : ∀ old, slot = some old → old.Wf cfg.S) : c.Wf cfg.S := by
  cases h with
  | construct p f => exact Controller.wf_fresh cfg p f
  | setGpio p old => exact (hold old rfl).bind p
  | setFreq f old => exact (hold old rfl).retune f
  | on d hd old _ hc =>
    obtain ⟨htopo, htiming, -⟩ := hold old rfl
    subst hc
    exact ⟨htopo, htiming, hd⟩
  | off old _ hc =>
    subst hc
    exact hold old rfl

/-- R26 and R27: the divider and the wrap of a well-formed controller are in range. -/
theorem Controller.Wf.timing_mem {c : Controller} {S : Nat} (h : c.Wf S) :
    1 ≤ c.clockDivider ∧ c.clockDivider ≤ 255 ∧ 2 ≤ c.wrap.toNat ∧ c.wrap.toNat ≤ 65535 := by
  obtain ⟨-, htiming, -⟩ := h
  obtain ⟨hdiv, hwrap⟩ := Prod.mk.inj htiming
  rw [hdiv, hwrap]
  obtain ⟨hdivMin, hdivMax⟩ := freqConv_divider_mem S c.frequencyHz.toNat
  exact ⟨hdivMin, hdivMax, freqConv_wrap_mem S c.frequencyHz.toNat⟩

/-! ### Every state operation keeps the attributes well formed -/

theorem State.AttributesWf.present {s : State} (h : s.AttributesWf) (k : Nat) (rest : List HostInput) :
    (s.present k rest).AttributesWf := h

theorem State.AttributesWf.takeFault {s : State} (h : s.AttributesWf) (cause : Cause) (info : FaultInfo) :
    (s.takeFault cause info).AttributesWf := h

theorem State.AttributesWf.complete {s : State} (h : s.AttributesWf) {c : Controller} (hc : c.Wf s.config.S)
    (calls : List Call) : (s.complete c calls).AttributesWf := by
  refine ⟨h.1, fun k d hd => ?_⟩
  obtain ⟨-, rfl⟩ | ⟨-, hold⟩ := State.holds_of_complete hd
  · exact hc
  · exact h.2 k d hold

theorem State.AttributesWf.assertReset {s : State} (h : s.AttributesWf) (rest : List HostInput) :
    (s.assertReset rest).AttributesWf :=
  ⟨h.1, fun k c hc => absurd hc (State.not_holds_assertReset s rest k c)⟩

theorem exec_keeps_attributesWf {i : Instr} {s t : State} (h : s.AttributesWf) (hexec : exec i s = .next t) :
    t.AttributesWf := by
  obtain ⟨-, slot, hslot, ⟨c, calls, heffect, rfl⟩ | ⟨cause, info, -, rfl⟩⟩ := exec_next hexec
  · exact h.complete (heffect.wf fun old hold => h.2 s.port old (hslot.trans (congrArg some hold))) calls
  · exact h.takeFault cause info

theorem step_keeps_attributesWf {s t : State} (h : s.AttributesWf) (hstep : step s = .next t) : t.AttributesWf := by
  obtain ⟨rest, -, rfl⟩ | ⟨k, w, rest, -, -, -, ⟨i, -, hexec⟩ | ⟨_, -, rfl⟩⟩ := step_next hstep
  · exact h.assertReset rest
  · exact exec_keeps_attributesWf (h.present k rest) hexec
  · exact (h.present k rest).takeFault .illegalCommand (.word w)

/-- Settles O50: the invariant is inductive, and the ranges are those of the frequency conversion. -/
theorem everyStepKeepsTheAttributesWellFormed : Obligations.EveryStepKeepsTheAttributesWellFormed := by
  intro s t hs hstep
  have ht : t.AttributesWf := step_keeps_attributesWf hs hstep
  refine ⟨ht, fun k c hc => ?_⟩
  have hwf : c.Wf t.config.S := ht.2 k c hc
  have ⟨htopo, htiming, _⟩ := hwf
  exact ⟨htopo, htiming, hwf.timing_mem⟩

end Sys2Proof.Machine

/-! The event trace and the register image (20_memory.md rule R69): a command adds a list of calls tagged with its port
and applies the same list to the image, so every step keeps the image equal to the fold of the trace. -/

namespace Sys2Proof.Machine

open Sys2Proof

/-! ### The calls of one command -/

/-- The command at port `k` leads from `s` to `t` by these calls: they join the trace under `k`, they are applied to the
image in order, and there are none if a fault is recorded (R69, 60_exceptions.md rule R186). -/
structure State.MakesCalls (s t : State) (k : Nat) (calls : List Call) : Prop where
  count : t.inst.length = s.inst.length
  trace : t.trace = s.trace ++ calls.map (fun call => (k, call))
  image : t.image = s.image.applyAll calls
  faulted : t.fault ≠ none → calls = []

theorem State.makesCalls_takeFault (s : State) (cause : Cause) (info : FaultInfo) (k : Nat) :
    s.MakesCalls (s.takeFault cause info) k [] where
  count := rfl
  trace := by simp
  image := rfl
  faulted := fun _ => rfl

theorem State.makesCalls_complete {s : State} (hf : s.Running) (c : Controller) (calls : List Call) :
    s.MakesCalls (s.complete c calls) s.port calls where
  count := by simp
  trace := rfl
  image := rfl
  faulted := fun ht => absurd hf ht

theorem exec_makesCalls {i : Instr} {s t : State} (hexec : exec i s = .next t) :
    ∃ calls, s.MakesCalls t s.port calls := by
  obtain ⟨hf, _, -, ⟨c, calls, -, rfl⟩ | ⟨cause, info, -, rfl⟩⟩ := exec_next hexec
  · exact ⟨calls, State.makesCalls_complete hf c calls⟩
  · exact ⟨[], s.makesCalls_takeFault cause info s.port⟩

/-- Presenting a word touches neither the instances, nor the trace, nor the image. -/
theorem State.MakesCalls.of_present {s t : State} {k : Nat} {rest : List HostInput} {calls : List Call}
    (h : (s.present k rest).MakesCalls t k calls) : s.MakesCalls t k calls :=
  ⟨h.count, h.trace, h.image, h.faulted⟩

/-- A step is a reset, or a command that makes calls under the number of a port that exists. -/
theorem step_makesCalls {s t : State} (hstep : step s = .next t) :
    (∃ rest, s.inputs = .reset :: rest ∧ t = s.assertReset rest) ∨
    ∃ k w rest calls, s.inputs = .command k w :: rest ∧ k < s.inst.length ∧ s.MakesCalls t k calls := by
  obtain hreset | ⟨k, w, rest, hin, -, hk, ⟨i, -, hexec⟩ | ⟨_, -, rfl⟩⟩ := step_next hstep
  · exact .inl hreset
  · obtain ⟨calls, hcalls⟩ := exec_makesCalls hexec
    exact .inr ⟨k, w, rest, calls, hin, hk, hcalls.of_present⟩
  · have hcalls := (s.present k rest).makesCalls_takeFault .illegalCommand (.word w) k
    exact .inr ⟨k, w, rest, [], hin, hk, hcalls.of_present⟩

/-! ### Agreement is kept -/

theorem State.traceAgrees_assertReset (s : State) (rest : List HostInput) : (s.assertReset rest).TraceAgrees :=
  ⟨rfl, by simp⟩

/-- The fold of the longer trace is the new calls' fold over the old image, and the new calls bear an existing port. -/
theorem State.TraceAgrees.of_makesCalls {s t : State} (hs : s.TraceAgrees) {k : Nat} {calls : List Call}
    (hk : k < s.inst.length) (h : s.MakesCalls t k calls) : t.TraceAgrees := by
  obtain ⟨himage, htags⟩ := hs
  obtain ⟨hcount, htrace, himage', -⟩ := h
  constructor
  · calc t.image
        = (Image.replay s.trace).applyAll calls := by rw [himage', himage]
      _ = Image.replay (s.trace ++ calls.map (fun call => (k, call))) := by
          simp [Image.replay_append, Function.comp_def]
      _ = Image.replay t.trace := by rw [htrace]
  · intro e he
    rw [htrace, List.mem_append, List.mem_map] at he
    rw [hcount]
    obtain hold | ⟨_, -, rfl⟩ := he
    · exact htags e hold
    · exact hk

/-- Settles O51: a reset empties both image and trace, and a command extends both by the same calls. -/
theorem everyStepKeepsImageAndTraceInAgreement : Obligations.EveryStepKeepsImageAndTraceInAgreement := by
  intro s t hs hstep
  obtain ⟨rest, hin, rfl⟩ | ⟨k, w, rest, calls, hin, hk, hcalls⟩ := step_makesCalls hstep
  · refine ⟨s.traceAgrees_assertReset rest, fun k w rest' hin' => ?_, fun ht => absurd rfl ht⟩
    exact absurd (hin.symm.trans hin') (by simp)
  · refine ⟨hs.of_makesCalls hk hcalls, fun k' w' rest' hin' => ?_, fun ht => ?_⟩
    · obtain ⟨⟨rfl, -⟩, -⟩ : (k = k' ∧ w = w') ∧ rest = rest' := by simpa using hin.symm.trans hin'
      exact ⟨calls, hcalls.trace, hcalls.image⟩
    · simp [hcalls.trace, hcalls.faulted ht]

end Sys2Proof.Machine

/-! The topology table (40_topology.md rules R100 and R101): the formula, its form on each group of sixteen pins, and the
printed rows as the listing of the formula. -/

namespace Sys2Proof.Machine

open Sys2Proof

/-! ### The formula -/

theorem topo_slice_val (p : Pin) : (topo p).1.val = p.val / 2 % 8 := rfl

theorem topo_channel_eq_a_iff (p : Pin) : (topo p).2 = .a ↔ p.val % 2 = 0 := by
  have hchannel : (topo p).2 = if p.val % 2 = 0 then .a else .b := rfl
  rw [hchannel]
  split
  case isTrue heven => simp [heven]
  case isFalse hodd => simp [hodd]

/-- On the first sixteen pins the slice number does not wrap. -/
theorem topo_slice_val_of_le {p : Pin} (hp : p.val ≤ 15) : (topo p).1.val = p.val / 2 := by
  have hsmall : p.val / 2 < 8 := by omega
  rw [topo_slice_val, Nat.mod_eq_of_lt hsmall]

/-- From pin 16 up the slice number has wrapped once. -/
theorem topo_slice_val_of_ge {p : Pin} (hp : 16 ≤ p.val) : (topo p).1.val = (p.val - 16) / 2 := by
  have hlt : p.val < 30 := p.isLt
  have hsplit : p.val / 2 = (p.val - 16) / 2 + 8 := by omega
  have hsmall : (p.val - 16) / 2 < 8 := by omega
  rw [topo_slice_val, hsplit, Nat.add_mod_right, Nat.mod_eq_of_lt hsmall]

/-! ### The printed table -/

/-- R101: the printed rows are those computed from the formula, pin 0 first. -/
theorem topoTable_eq_ofFn : topoTable = List.ofFn topo := by decide

theorem topoTable_length : topoTable.length = 30 := by
  rw [topoTable_eq_ofFn, List.length_ofFn]

theorem topoTable_getElem? (p : Pin) : topoTable[p.val]? = some (topo p) := by
  rw [topoTable_eq_ofFn, List.getElem?_ofFn, dif_pos p.isLt]

/-- Settles O1: the formula by its parity and its single wrap at pin 16, the table as the formula's listing. -/
theorem topologyFollowsFormulasAndTable : Obligations.TopologyFollowsFormulasAndTable := fun p =>
  ⟨topo_slice_val p, topo_channel_eq_a_iff p, topo_slice_val_of_le, topo_slice_val_of_ge,
    topoTable_length, topoTable_getElem? p⟩

end Sys2Proof.Machine

/-! The range of the frequency conversion (41_frequency_conversion.md rule R122). -/

namespace Sys2Proof.Machine

open Sys2Proof

/-- Settles O3: the divider and the period are each the result of a clamp, and a clamped period fits the register. -/
theorem freqConvStaysInRange : Obligations.FreqConvStaysInRange := by
  intro S f
  obtain ⟨hdivMin, hdivMax⟩ := freqConv_divider_mem S f
  obtain ⟨hwrapMin, hwrapMax⟩ := freqConv_wrap_mem S f
  exact ⟨hdivMin, hdivMax, hwrapMin, hwrapMax, toNat_ofNat_freqConv_wrap S f⟩

end Sys2Proof.Machine

/-! ProgramTiming (42_controller_ops.md rule R142): its three calls in order, and what the divider, period and
level registers of the image read after them. -/

namespace Sys2Proof.Machine

open Sys2Proof

/-! ### The calls -/

theorem Controller.programTiming_eq (c : Controller) :
    c.programTiming = [.setClkDiv c.slice c.clockDivider, .setPeriod c.slice c.wrap,
      .setLevel c.slice c.channel c.level] := rfl

/-- The three calls as writes of the image, the divider first. -/
theorem Image.applyAll_programTiming (im : Image) (c : Controller) :
    im.applyAll c.programTiming =
      ((im.setDiv c.slice c.clockDivider).setTop c.slice c.wrap).setCc c.slice c.channel c.level := by
  simp only [Controller.programTiming_eq, Image.applyAll_cons, Image.applyAll_nil, Image.apply_setClkDiv,
    Image.apply_setPeriod, Image.apply_setLevel]

/-! ### The registers after the calls -/

theorem Image.div_programTiming (im : Image) (c : Controller) (i : SliceIx) :
    (im.applyAll c.programTiming).div i = if i = c.slice then some c.clockDivider else im.div i := by
  rw [Image.applyAll_programTiming, Image.div_setCc, Image.div_setTop, Image.div_setDiv]

theorem Image.top_programTiming (im : Image) (c : Controller) (i : SliceIx) :
    (im.applyAll c.programTiming).top i = if i = c.slice then some c.wrap else im.top i := by
  rw [Image.applyAll_programTiming, Image.top_setCc, Image.top_setTop, Image.top_setDiv]

theorem Image.cc_programTiming (im : Image) (c : Controller) (i : SliceIx) (ch : Channel) :
    (im.applyAll c.programTiming).cc i ch =
      if i = c.slice ∧ ch = c.channel then some c.level else im.cc i ch := by
  rw [Image.applyAll_programTiming, Image.cc_setCc, Image.cc_setTop, Image.cc_setDiv]

/-- Settles O38: the registers of the controller's own slice, read after its three calls. -/
theorem programTimingWritesDividerPeriodLevel : Obligations.ProgramTimingWritesDividerPeriodLevel := by
  intro c im l hl
  obtain rfl : l = c.level := hl
  refine ⟨c.programTiming_eq, ?divider, ?period, ?level, fun ch hch => ?otherLevel⟩
  case divider => rw [Image.div_programTiming, if_pos rfl]
  case period => rw [Image.top_programTiming, if_pos rfl]
  case level => rw [Image.cc_programTiming, if_pos ⟨rfl, rfl⟩]
  case otherLevel => rw [Image.cc_programTiming, if_neg fun h => hch h.2]

end Sys2Proof.Machine

/-! No frequency faults, and no pin or duty is clamped (42_controller_ops.md rule R153): a command that executes either
completes with its operand taken exactly, or records a fault on an operand out of range. -/

namespace Sys2Proof.Machine

open Sys2Proof

/-- At a port that exists a command completes, and its controller holds the new attributes, or it records a fault. -/
theorem exec_completes_or_faults {s : State} {slot : Option Controller} (hf : s.Running)
    (hs : s.inst[s.port]? = some slot) (i : Instr) : ∃ t, exec i s = .next t ∧
      ((t.fault = none ∧ ∃ c calls, Effect s.config i slot c calls ∧ t.Holds s.port c) ∨
        ((∃ cause info, TurnedAway i slot cause info) ∧ t.fault ≠ none)) := by
  obtain ⟨c, calls, heffect⟩ | ⟨cause, info, haway⟩ := effect_or_turnedAway s.config i slot
  · exact ⟨_, exec_of_effect hf hs heffect, .inl ⟨hf, c, calls, heffect, State.holds_complete hs c calls⟩⟩
  · exact ⟨_, exec_of_turnedAway hf hs haway, .inr ⟨⟨cause, info, haway⟩, by simp⟩⟩

/-! ### Each command with an operand -/

theorem exec_setFreq_never_faults {s : State} {c : Controller} (hf : s.Running) (hc : s.Holds s.port c) (f : Freq) :
    ∃ t, exec (.setFreq f) s = .next t ∧ t.fault = none := by
  obtain ⟨t, hexec, ⟨hok, -⟩ | ⟨⟨_, _, haway⟩, -⟩⟩ := exec_completes_or_faults hf hc (.setFreq f)
  · exact ⟨t, hexec, hok⟩
  · cases haway

theorem exec_construct_exact_or_faults {s : State} (hf : s.Running) (hs : s.inst[s.port]? = some none) (p : Int)
    (f : Freq) : ∃ t, exec (.construct p f) s = .next t ∧
      ((t.fault = none ∧ ∃ c, t.Holds s.port c ∧ (c.pin.val : Int) = p ∧ c.frequencyHz = f) ∨
        ((p < 0 ∨ 29 < p) ∧ t.fault ≠ none)) := by
  obtain ⟨t, hexec, ⟨hok, c, _, heffect, hc⟩ | ⟨⟨_, _, haway⟩, hfault⟩⟩ :=
    exec_completes_or_faults hf hs (.construct p f)
  · cases heffect
    exact ⟨t, hexec, .inl ⟨hok, _, hc, rfl, rfl⟩⟩
  · cases haway with
    | notConstructed _ hi => exact absurd rfl hi
    | constructPin _ _ hp => exact ⟨t, hexec, .inr ⟨hp, hfault⟩⟩

theorem exec_setGpio_exact_or_faults {s : State} {c : Controller} (hf : s.Running) (hc : s.Holds s.port c) (p : Int) :
    ∃ t, exec (.setGpio p) s = .next t ∧
      ((t.fault = none ∧ ∃ c', t.Holds s.port c' ∧ (c'.pin.val : Int) = p) ∨
        ((p < 0 ∨ 29 < p) ∧ t.fault ≠ none)) := by
  obtain ⟨t, hexec, ⟨hok, c', _, heffect, hc'⟩ | ⟨⟨_, _, haway⟩, hfault⟩⟩ := exec_completes_or_faults hf hc (.setGpio p)
  · cases heffect
    exact ⟨t, hexec, .inl ⟨hok, _, hc', rfl⟩⟩
  · cases haway with
    | setGpioPin _ _ hp => exact ⟨t, hexec, .inr ⟨hp, hfault⟩⟩

theorem exec_on_exact_or_faults {s : State} {c : Controller} (hf : s.Running) (hc : s.Holds s.port c) (d : Int) :
    ∃ t, exec (.on d) s = .next t ∧
      ((t.fault = none ∧ ∃ c', t.Holds s.port c' ∧ (c'.dutyCyclePercent.toNat : Int) = d) ∨
        ((d < 0 ∨ 100 < d) ∧ t.fault ≠ none)) := by
  obtain ⟨t, hexec, ⟨hok, c', _, heffect, hc'⟩ | ⟨⟨_, _, haway⟩, hfault⟩⟩ := exec_completes_or_faults hf hc (.on d)
  · cases heffect with
    | on q _ _ _ hnew =>
      subst hnew
      exact ⟨t, hexec, .inl ⟨hok, _, hc', rfl⟩⟩
  · cases haway with
    | onDuty _ _ hd => exact ⟨t, hexec, .inr ⟨hd, hfault⟩⟩

/-- Settles O30: SETFREQ has its effect whatever the frequency; the others take their operand as it is, or it is out of
range. -/
theorem frequencyNeverFaultsPinAndDutyNeverClamp : Obligations.FrequencyNeverFaultsPinAndDutyNeverClamp := fun _ hf =>
  ⟨fun _ f hc => exec_setFreq_never_faults hf hc f, fun p f hs => exec_construct_exact_or_faults hf hs p f,
    fun _ p hc => exec_setGpio_exact_or_faults hf hc p, fun _ d hc => exec_on_exact_or_faults hf hc d⟩

end Sys2Proof.Machine

/-! Faults (60_exceptions.md): a command turned away records its cause and changes no attribute, image register or trace
(R186); pins and duties are turned away exactly outside their range (R181, R182); only reset leaves the halt (R189). -/

namespace Sys2Proof.Machine

open Sys2Proof

/-! ### What a fault leaves alone -/

theorem State.sameState_takeFault (s : State) (cause : Cause) (info : FaultInfo) :
    s.SameState (s.takeFault cause info) := ⟨rfl, rfl, rfl, rfl⟩

/-- Selecting the port and consuming the input touches nothing that a fault leaves alone. -/
theorem State.SameState.of_present {s t : State} {k : Nat} {rest : List HostInput}
    (h : (s.present k rest).SameState t) : s.SameState t :=
  ⟨h.config, h.inst, h.image, h.trace⟩

/-- A completed command records no fault, so a command that records one was turned away. -/
theorem exec_sameState_of_fault {i : Instr} {s t : State} (hexec : exec i s = .next t) (ht : t.fault ≠ none) :
    s.SameState t := by
  obtain ⟨hf, _, -, ⟨c, calls, -, rfl⟩ | ⟨cause, info, -, rfl⟩⟩ := exec_next hexec
  · exact absurd hf ht
  · exact s.sameState_takeFault cause info

/-- Settles O29: a fault is recorded by fault entry alone, from the decoder or from a command that is turned away. -/
theorem faultHasNoPartialEffect : Obligations.FaultHasNoPartialEffect := by
  intro s t _ hstep ht
  obtain ⟨rest, -, rfl⟩ | ⟨k, w, rest, -, -, -, ⟨i, -, hexec⟩ | ⟨_, -, rfl⟩⟩ := step_next hstep
  · exact absurd rfl ht
  · exact (exec_sameState_of_fault hexec ht).of_present
  · exact ((s.present k rest).sameState_takeFault .illegalCommand (.word w)).of_present

/-! ### Operands out of range and in range -/

section Operands

variable {s : State} {slot : Option Controller} {i : Instr}

theorem exec_faults_of_turnedAway {cause : Cause} {info : FaultInfo} (hf : s.Running)
    (hs : s.inst[s.port]? = some slot) (h : TurnedAway i slot cause info) :
    ∃ t, exec i s = .next t ∧ t.fault.map FaultRecord.cause = some cause ∧ s.SameState t :=
  ⟨_, exec_of_turnedAway hf hs h, rfl, s.sameState_takeFault cause info⟩

theorem exec_accepts_of_effect {c : Controller} {calls : List Call} (hf : s.Running)
    (hs : s.inst[s.port]? = some slot) (h : Effect s.config i slot c calls) :
    ∃ t, exec i s = .next t ∧ t.fault = none :=
  ⟨_, exec_of_effect hf hs h, hf⟩

end Operands

/-- Settles O25: outside 0 to 29 both commands are turned away, and inside the operand is a pin and both have their
effect. -/
theorem pinOutOfRangeFaults : Obligations.PinOutOfRangeFaults := by
  intro s p f hf
  refine ⟨fun hs => ⟨fun hp => ?_, fun h0 h29 => ?_⟩, fun c hc => ⟨fun hp => ?_, fun h0 h29 => ?_⟩⟩
  · exact exec_faults_of_turnedAway hf hs (.constructPin p f hp)
  · obtain ⟨q, rfl⟩ := exists_pin (p := p) (by omega)
    exact exec_accepts_of_effect hf hs (.construct q f)
  · exact exec_faults_of_turnedAway hf hc (.setGpioPin p c hp)
  · obtain ⟨q, rfl⟩ := exists_pin (p := p) (by omega)
    exact exec_accepts_of_effect hf hc (.setGpio q c)

/-- Settles O26: outside 0 to 100 ON is turned away, and inside the operand is a duty and ON has its effect. -/
theorem dutyOutOfRangeFaults : Obligations.DutyOutOfRangeFaults := by
  intro s c d ⟨hf, hc⟩
  refine ⟨fun hd => ?_, fun h0 h100 => ?_⟩
  · exact exec_faults_of_turnedAway hf hc (.onDuty d c hd)
  · obtain ⟨q, hq, rfl⟩ := exists_duty (d := d) (by omega)
    exact exec_accepts_of_effect hf hc (.on q hq c _ rfl)

/-! ### The way out of the halt -/

/-- A step of a halted system is the reset input. -/
theorem step_of_halted {s t : State} {r : FaultRecord} (hr : s.fault = some r) (hstep : step s = .next t) :
    ∃ rest, s.inputs = .reset :: rest ∧ t = s.assertReset rest := by
  obtain hreset | ⟨_, _, _, -, hrunning, -⟩ := step_next hstep
  · exact hreset
  · exact absurd (hr.symm.trans hrunning) (by simp)

/-- Settles O19: a halted system executes no command, and the reset input leaves nothing recorded or constructed. -/
theorem resetIsTheOnlyWayOutOfTheHalt : Obligations.ResetIsTheOnlyWayOutOfTheHalt := by
  intro s r hr
  constructor
  · intro i t hexec
    exact absurd ((exec_halted hr i).symm.trans hexec) (by simp)
  · intro t hstep
    obtain ⟨rest, hin, rfl⟩ := step_of_halted hr hstep
    exact ⟨⟨rest, hin⟩, rfl, State.not_holds_assertReset s rest⟩

end Sys2Proof.Machine

/-! Commands and words (30_encoding.md): what decoding to a command says of a word's fields, decoding and encoding as
inverse to one another (R85), and the rows of the opcode table as the formats of their mnemonics (R82, R86). -/

namespace Sys2Proof

/-! ### The fields of a word and of an encoded command -/

@[simp] theorem opField_encode (i : Instr) : opField (encode i) = i.mnemonic.opcode :=
  (Laws.EncodeFields.fields_of_encode i).1

@[simp] theorem aField_encode (i : Instr) : aField (encode i) = i.aBits :=
  (Laws.EncodeFields.fields_of_encode i).2.1

@[simp] theorem fField_encode (i : Instr) : fField (encode i) = i.fBits :=
  (Laws.EncodeFields.fields_of_encode i).2.2

/-- Two words with the same fields are the same word (R80). -/
theorem word_ext_fields {w x : CommandWord} (hop : opField w = opField x) (ha : aField w = aField x)
    (hf : fField w = fField x) : w = x := by
  rw [← word_eq_fields w, ← word_eq_fields x, hop, ha, hf]

/-- A word under a mask, field by field. -/
theorem and_eq_iff_fields (w mask x : CommandWord) : w &&& mask = x ↔
    opField w &&& opField mask = opField x ∧ aField w &&& aField mask = aField x ∧
      fField w &&& fField mask = fField x := by
  simp only [opField, aField, fField, ← BitVec.extractLsb'_and]
  exact ⟨by rintro rfl; exact ⟨rfl, rfl, rfl⟩, fun ⟨hop, ha, hf⟩ => word_ext_fields hop ha hf⟩

/-! ### Decoding and encoding -/

/-- What a word that decodes to a command looks like: its fields are the command's, and field A holds the operand. -/
theorem fields_of_decode {w : CommandWord} {i : Instr} (h : decode w = .command i) :
    opField w = i.mnemonic.opcode ∧ aField w = i.aBits ∧ fField w = i.fBits ∧ i.wellFormed = true := by
  unfold decode at h
  split_ifs at h <;> cases h
  all_goals
    simp_all [Instr.mnemonic, Mnemonic.opcode, Instr.aBits, Instr.fBits, Instr.wellFormed, fitsFieldA_sext8]

theorem decode_encode {i : Instr} (h : i.wellFormed = true) : decode (encode i) = .command i := by
  cases i with
  | construct p f => simp [decode, Instr.mnemonic, Mnemonic.opcode, Instr.aBits, Instr.fBits, sext8_ofInt h]
  | setGpio p => simp [decode, Instr.mnemonic, Mnemonic.opcode, Instr.aBits, Instr.fBits, sext8_ofInt h]
  | setFreq f => simp [decode, Instr.mnemonic, Mnemonic.opcode, Instr.aBits, Instr.fBits]
  | on d => simp [decode, Instr.mnemonic, Mnemonic.opcode, Instr.aBits, Instr.fBits, sext8_ofInt h]
  | off => simp [decode, Instr.mnemonic, Mnemonic.opcode, Instr.aBits, Instr.fBits]

theorem encode_of_decode {w : CommandWord} {i : Instr} (h : decode w = .command i) : encode i = w := by
  obtain ⟨hop, ha, hf, -⟩ := fields_of_decode h
  exact word_ext_fields (by rw [hop, opField_encode]) (by rw [ha, aField_encode]) (by rw [hf, fField_encode])

theorem wellFormed_of_decode {w : CommandWord} {i : Instr} (h : decode w = .command i) : i.wellFormed = true :=
  (fields_of_decode h).2.2.2

/-- Settles O10: the decoder finds the encoder's fields, and field A reads back the operand it holds. -/
theorem decodeOfEncodeIsTheCommand : Obligations.DecodeOfEncodeIsTheCommand :=
  fun _ hi => decode_encode hi

/-- Settles O11: a decoded word has the fields of its command, and its fields are the whole word. -/
theorem encodeOfDecodeIsTheWord : Obligations.EncodeOfDecodeIsTheWord :=
  fun _ _ h => ⟨encode_of_decode h, wellFormed_of_decode h⟩

/-- Settles O13: eight fixed words, evaluated. -/
theorem exampleWordsDecode : Obligations.ExampleWordsDecode := by
  unfold Obligations.ExampleWordsDecode
  decide

/-! ### The opcode table -/

/-- The format of a mnemonic: its operation code, and zero in the fields it does not use (R81, R82). -/
def Mnemonic.Format (m : Mnemonic) (w : CommandWord) : Prop :=
  opField w = m.opcode ∧
  match m with
  | .construct => True
  | .setGpio => fField w = 0#32
  | .setFreq => aField w = 0#8
  | .on => fField w = 0#32
  | .off => aField w = 0#8 ∧ fField w = 0#32

theorem Mnemonic.opcode_injective {m m' : Mnemonic} (h : m.opcode = m'.opcode) : m = m' := by
  revert h; cases m <;> cases m' <;> decide

/-- The mask of a row keeps the operation code and the unused fields, and its match word is zero in the latter. -/
theorem OpcodeRow.covers_iff_format {r : OpcodeRow} (hr : r ∈ opcodeTable) (w : CommandWord) :
    r.covers w = true ↔ r.mnemonic.Format w := by
  have hkeep8 (a : BitVec 8) : a &&& 255#8 = a := BitVec.and_allOnes
  have hkeep32 (f : BitVec 32) : f &&& 4294967295#32 = f := BitVec.and_allOnes
  rw [OpcodeRow.covers, beq_iff_eq, and_eq_iff_fields]
  fin_cases hr <;> simp [Mnemonic.Format, Mnemonic.opcode, opField, aField, fField, hkeep8, hkeep32]

theorem Mnemonic.exists_row (m : Mnemonic) : ∃ r ∈ opcodeTable, r.mnemonic = m := by
  cases m <;> decide

/-- The words of a format are those that decode to a command of the mnemonic. -/
theorem Mnemonic.format_iff_decode (m : Mnemonic) (w : CommandWord) :
    m.Format w ↔ ∃ i, decode w = .command i ∧ i.mnemonic = m := by
  constructor
  · rintro ⟨hop, hrest⟩
    cases m with
    | construct => exact ⟨.construct (sext8 (aField w)) (fField w), by simp_all [decode, opcode], rfl⟩
    | setGpio => exact ⟨.setGpio (sext8 (aField w)), by simp_all [decode, opcode], rfl⟩
    | setFreq => exact ⟨.setFreq (fField w), by simp_all [decode, opcode], rfl⟩
    | on => exact ⟨.on (sext8 (aField w)), by simp_all [decode, opcode], rfl⟩
    | off => exact ⟨.off, by simp_all [decode, opcode], rfl⟩
  · rintro ⟨i, hi, rfl⟩
    obtain ⟨hop, ha, hf, -⟩ := fields_of_decode hi
    refine ⟨hop, ?_⟩
    cases i <;> simp_all [Instr.mnemonic, Instr.aBits, Instr.fBits]

theorem row_eq_of_mnemonic : ∀ r ∈ opcodeTable, ∀ r' ∈ opcodeTable, r.mnemonic = r'.mnemonic → r = r' := by
  decide

theorem OpcodeRow.covers_iff_decode {r : OpcodeRow} (hr : r ∈ opcodeTable) (w : CommandWord) :
    r.covers w = true ↔ ∃ i, decode w = .command i ∧ i.mnemonic = r.mnemonic :=
  (covers_iff_format hr w).trans (r.mnemonic.format_iff_decode w)

/-- Settles O12: a row covers the words of its mnemonic's format, a word has one operation code, and every mnemonic has
a row. -/
theorem decodeFollowsTheOpcodeTable : Obligations.DecodeFollowsTheOpcodeTable := by
  intro w
  refine ⟨fun r hr => r.covers_iff_decode hr w, fun r hr r' hr' h h' => ?disjoint, fun ⟨why, hwhy⟩ r hr => ?reserved,
    fun hnone => ?decoded⟩
  case disjoint =>
    obtain ⟨hop, -⟩ := (OpcodeRow.covers_iff_format hr w).mp h
    obtain ⟨hop', -⟩ := (OpcodeRow.covers_iff_format hr' w).mp h'
    exact row_eq_of_mnemonic r hr r' hr' (Mnemonic.opcode_injective (hop.symm.trans hop'))
  case reserved =>
    refine Bool.eq_false_iff.mpr fun hcovers => ?_
    obtain ⟨i, hi, -⟩ := (r.covers_iff_decode hr w).mp hcovers
    exact absurd (hi.symm.trans hwhy) (by simp)
  case decoded =>
    cases hd : decode w with
    | reserved why => exact ⟨why, rfl⟩
    | command i =>
      obtain ⟨r, hr, hm⟩ := i.mnemonic.exists_row
      have hcovers : r.covers w = true := (r.covers_iff_decode hr w).mpr ⟨i, hd, hm.symm⟩
      exact absurd hcovers (by simp [hnone r hr])

end Sys2Proof

/-! The calculator (41_frequency_conversion.md): rounding as an integer division (R117), the closed form of the
frequency conversion in its three bands (R119), its accuracy (R123), and the level (R125, R126). -/

namespace Sys2Proof.Machine

open Sys2Proof

/-! ### Rounding and the level -/

theorem roundHA_div (a : Nat) {b : Nat} (hb : 0 < b) : roundHA ((a : Rat) / (b : Rat)) = (2 * a + b) / (2 * b) := by
  have hb' : (b : Rat) ≠ 0 := by positivity
  have hhalf : (a : Rat) / (b : Rat) + 1 / 2 = ((2 * a + b : Nat) : Rat) / ((2 * b : Nat) : Rat) := by
    push_cast; field_simp
  rw [roundHA, hhalf]
  exact Nat.floor_div_eq_div (K := Rat) _ _

/-- Rounding does not fall below a natural number that the argument reaches. -/
theorem le_roundHA {n : Nat} {q : Rat} (h : (n : Rat) ≤ q) : n ≤ roundHA q :=
  Nat.le_floor (α := Rat) (by linarith)

/-- Settles O2: one half added to a quotient is one quotient, whose floor is a division. -/
theorem roundHalfAwayIsIntegerDivision : Obligations.RoundHalfAwayIsIntegerDivision :=
  fun a _ hb => roundHA_div a hb

theorem levelNat_eq_roundHA (w d : Nat) : levelNat w d = roundHA (((w * d : Nat) : Rat) / 100) := by
  have h := roundHA_div (w * d) (b := 100) (by norm_num)
  rw [Nat.cast_ofNat] at h
  rw [h, levelNat]; omega

/-- Settles O8: the rounded quotient with denominator 100, its fraction reduced by two. -/
theorem levelIsTheRoundedQuotient : Obligations.LevelIsTheRoundedQuotient := levelNat_eq_roundHA

@[simp] theorem levelNat_zero (w : Nat) : levelNat w 0 = 0 := by simp [levelNat]

@[simp] theorem levelNat_hundred (w : Nat) : levelNat w 100 = w := by
  unfold levelNat; omega

theorem levelNat_le_of_duty_le (w : Nat) {d d' : Nat} (h : d ≤ d') : levelNat w d ≤ levelNat w d' :=
  Nat.div_le_div_right (Nat.add_le_add_right (Nat.mul_le_mul_left w h) 50)

theorem levelNat_le_of_wrap_le {w w' : Nat} (d : Nat) (h : w ≤ w') : levelNat w d ≤ levelNat w' d :=
  Nat.div_le_div_right (Nat.add_le_add_right (Nat.mul_le_mul_right d h) 50)

/-- A duty of at most 100 gives a level within the period (R126). -/
theorem levelNat_le_wrap (w : Nat) {d : Nat} (hd : d ≤ 100) : levelNat w d ≤ w :=
  (levelNat_le_of_duty_le w hd).trans_eq (levelNat_hundred w)

/-- The register holds the exact level (R126). -/
theorem toNat_level (w : Ticks) {d : Duty} (hd : d.toNat ≤ 100) : (level w d).toNat = levelNat w.toNat d.toNat := by
  have hle : levelNat w.toNat d.toNat ≤ w.toNat := levelNat_le_wrap _ hd
  rw [level, BitVec.toNat_ofNat]
  exact Nat.mod_eq_of_lt (hle.trans_lt w.isLt)

theorem toNat_ofNat_duty {d : Nat} (hd : d ≤ 100) : (BitVec.ofNat 7 d).toNat = d := by
  rw [BitVec.toNat_ofNat]; omega

/-- Settles O9: the level is monotone in both arguments, and at duty 100 it is the period. -/
theorem levelIsMonotoneAndBounded : Obligations.LevelIsMonotoneAndBounded := by
  intro w d _ hw hd
  refine ⟨levelNat_zero w, levelNat_hundred w, ?half, levelNat_le_wrap w hd, fun _ => levelNat_le_of_duty_le w,
    fun _ => levelNat_le_of_wrap_le d, ?register⟩
  case half => unfold levelNat; omega
  case register =>
    have hw' : (BitVec.ofNat 16 w).toNat = w := by rw [BitVec.toNat_ofNat]; omega
    have hd' : (BitVec.ofNat 7 d).toNat = d := toNat_ofNat_duty hd
    rw [toNat_level _ (hd'.trans_le hd), hw', hd']

/-! ### The three steps over exact rationals -/

theorem freqConv_eq (S f : Nat) : freqConv S f = (dividerFor Num.exact S f, periodFor Num.exact S f) := rfl

section Steps

variable {S f : Nat}

theorem provisionalDiv_exact (hf : 1 ≤ f) :
    provisionalDiv Num.exact S f = max 1 (min 255 ((S : Rat) / ((f : Rat) * 65535))) := by
  have hne : (f : Rat) * 65535 ≠ 0 := by positivity
  rw [provisionalDiv, Num.exact_cvt, Num.exact_cvt, Num.exact_cvt, Num.exact_fmul, Nat.cast_ofNat,
    Num.exact_fdiv hne, Num.exact_clampDiv_fin]

/-- The provisional divider is at least 1, so the quotient of step 2 is finite (R113). -/
theorem periodFor_exact (hf : 1 ≤ f) : periodFor Num.exact S f =
    max 2 (min 65535 (roundHA ((S : Rat) / ((f : Rat) * provisionalDiv Num.exact S f)))) := by
  have hdiv : (0 : Rat) < provisionalDiv Num.exact S f := by
    rw [provisionalDiv_exact hf]
    exact lt_max_of_lt_left one_pos
  have hne : (f : Rat) * provisionalDiv Num.exact S f ≠ 0 := by positivity
  rw [periodFor, Num.exact_cvt, Num.exact_cvt, Num.exact_fmul, Num.exact_fdiv hne, Num.exact_toWrap_fin]

/-- The period is at least 2, so the quotient of step 3 is finite (R114). -/
theorem dividerFor_exact (hf : 1 ≤ f) : dividerFor Num.exact S f =
    max 1 (min 255 ((S : Rat) / ((f : Rat) * (periodFor Num.exact S f : Rat)))) := by
  have hperiod : 2 ≤ periodFor Num.exact S f := (freqConv_wrap_mem S f).1
  have hne : (f : Rat) * (periodFor Num.exact S f : Rat) ≠ 0 := by positivity
  rw [dividerFor, Num.exact_cvt, Num.exact_cvt, Num.exact_cvt, Num.exact_fmul, Num.exact_fdiv hne,
    Num.exact_clampDiv_fin]

/-! ### The closed form -/

/-- Frequency zero makes both quotients infinite (R116). -/
theorem freqConv_zero (S : Nat) : freqConv S 0 = (255, 65535) := by
  simp [freqConv_eq, dividerFor, periodFor]

/-- From `65535 f` up the provisional divider is at most `S / (65535 f)`, so the period is at its top. -/
theorem periodFor_of_bands_LM (hf : 1 ≤ f) (h : 65535 * f ≤ S) : periodFor Num.exact S f = 65535 := by
  have hS : ((65535 * f : Nat) : Rat) ≤ (S : Rat) := Nat.cast_le.mpr h
  push_cast at hS
  have hq : 1 ≤ (S : Rat) / ((f : Rat) * 65535) := by rw [one_le_div (by positivity)]; linarith
  have hd : provisionalDiv Num.exact S f ≤ (S : Rat) / ((f : Rat) * 65535) := by
    rw [provisionalDiv_exact hf]
    exact max_le hq (min_le_right _ _)
  have hd0 : 0 < provisionalDiv Num.exact S f := by
    rw [provisionalDiv_exact hf]
    exact lt_max_of_lt_left one_pos
  have hquotient : ((65535 : Nat) : Rat) ≤ (S : Rat) / ((f : Rat) * provisionalDiv Num.exact S f) := by
    rw [le_div_iff₀ (by positivity)] at hd ⊢
    push_cast
    linarith
  have hround : 65535 ≤ roundHA ((S : Rat) / ((f : Rat) * provisionalDiv Num.exact S f)) := le_roundHA hquotient
  rw [periodFor_exact hf]
  omega

/-- Bands L and M: the period at its top, the divider clamped (R119). -/
theorem freqConv_bands_LM (hf : 1 ≤ f) (h : 65535 * f ≤ S) :
    freqConv S f = (max 1 (min 255 ((S : Rat) / (65535 * (f : Rat)))), 65535) := by
  have hperiod : periodFor Num.exact S f = 65535 := periodFor_of_bands_LM hf h
  rw [freqConv_eq, dividerFor_exact hf, hperiod, Nat.cast_ofNat, mul_comm]

/-- Band L: the divider is at its top too. -/
theorem freqConv_band_L (hf : 1 ≤ f) (h : 16711425 * f ≤ S) : freqConv S f = (255, 65535) := by
  have hS : ((16711425 * f : Nat) : Rat) ≤ (S : Rat) := Nat.cast_le.mpr h
  push_cast at hS
  have hq : 255 ≤ (S : Rat) / (65535 * (f : Rat)) := by rw [le_div_iff₀ (by positivity)]; linarith
  rw [freqConv_bands_LM hf (by omega), min_eq_left hq, max_eq_right (by norm_num)]

/-- Band M: the divider is not clamped. -/
theorem freqConv_band_M (hf : 1 ≤ f) (h : 65535 * f ≤ S) (h' : S ≤ 16711425 * f) :
    freqConv S f = ((S : Rat) / (65535 * (f : Rat)), 65535) := by
  have hS : ((65535 * f : Nat) : Rat) ≤ (S : Rat) := Nat.cast_le.mpr h
  have hS' : (S : Rat) ≤ ((16711425 * f : Nat) : Rat) := Nat.cast_le.mpr h'
  push_cast at hS hS'
  have hq : (S : Rat) / (65535 * (f : Rat)) ≤ 255 := by rw [div_le_iff₀ (by positivity)]; linarith
  have hq' : 1 ≤ (S : Rat) / (65535 * (f : Rat)) := by rw [one_le_div (by positivity)]; linarith
  rw [freqConv_bands_LM hf h, min_eq_right hq, max_eq_right hq']

/-- Below `65535 f` the provisional divider is at its floor, and the period is the rounded quotient, clamped. -/
theorem periodFor_band_H (hf : 1 ≤ f) (h : S < 65535 * f) :
    periodFor Num.exact S f = max 2 (min 65535 ((2 * S + f) / (2 * f))) := by
  have hS : (S : Rat) < ((65535 * f : Nat) : Rat) := Nat.cast_lt.mpr h
  push_cast at hS
  have hq : (S : Rat) / ((f : Rat) * 65535) ≤ 1 := by rw [div_le_one (by positivity)]; linarith
  rw [periodFor_exact hf, provisionalDiv_exact hf, max_eq_left ((min_le_right _ _).trans hq), mul_one, roundHA_div S hf]

/-- The rounded quotient is within one half of the quotient. -/
theorem rounded_quotient_bounds (hf : 1 ≤ f) :
    2 * ((2 * S + f) / (2 * f) * f) ≤ 2 * S + f ∧ 2 * S < 2 * ((2 * S + f) / (2 * f) * f) + f := by
  have hdiv := Nat.div_add_mod (2 * S + f) (2 * f)
  have hmod := Nat.mod_lt (2 * S + f) (show 0 < 2 * f by omega)
  rw [show 2 * f * ((2 * S + f) / (2 * f)) = 2 * ((2 * S + f) / (2 * f) * f) by ring] at hdiv
  omega

/-- In band H the rounded quotient does not exceed the top of the period. -/
theorem rounded_quotient_le (h : S < 65535 * f) : (2 * S + f) / (2 * f) ≤ 65535 :=
  Nat.lt_succ_iff.mp ((Nat.div_lt_iff_lt_mul (by omega)).mpr (by omega))

/-- Band H: the divider needs no upper clamp, since the period is not below the rounded quotient (R119). -/
theorem freqConv_band_H (hf : 1 ≤ f) (h : S < 65535 * f) {w : Nat}
    (hw : w = max 2 (min 65535 ((2 * S + f) / (2 * f)))) :
    freqConv S f = (max 1 ((S : Rat) / ((f : Rat) * (w : Rat))), w) := by
  have hperiod : periodFor Num.exact S f = w := (periodFor_band_H hf h).trans hw.symm
  obtain ⟨-, hround⟩ := rounded_quotient_bounds (S := S) hf
  have hle : (2 * S + f) / (2 * f) ≤ w := by have := rounded_quotient_le h; omega
  have hw2 : 2 ≤ w := by omega
  have hS : S ≤ 255 * (f * w) := by nlinarith [Nat.mul_le_mul_right f hle, Nat.mul_le_mul_right f hw2]
  have hS' : (S : Rat) ≤ ((255 * (f * w) : Nat) : Rat) := Nat.cast_le.mpr hS
  push_cast at hS'
  have hq : (S : Rat) / ((f : Rat) * (w : Rat)) ≤ 255 := by rw [div_le_iff₀ (by positivity)]; linarith
  rw [freqConv_eq, dividerFor_exact hf, hperiod, min_eq_right hq]

end Steps

/-- Settles O4: infinite quotients at frequency zero, and one lemma per band. -/
theorem freqConvHasTheClosedForm : Obligations.FreqConvHasTheClosedForm := fun S _ _ =>
  ⟨freqConv_zero S, fun hf => ⟨freqConv_band_L hf, freqConv_band_M hf, fun h _ => freqConv_band_H hf h⟩⟩

/-! ### The accuracy -/

section Accuracy

variable {S f : Nat}

theorem achievedHz_band_M (hf : 1 ≤ f) (h : 65535 * f ≤ S) (h' : S ≤ 16711425 * f) :
    achievedHz S (freqConv S f).1 (freqConv S f).2 = (f : Rat) := by
  have hS : (S : Rat) ≠ 0 := Nat.cast_ne_zero.mpr (by omega)
  rw [freqConv_band_M hf h h', achievedHz]
  push_cast
  field_simp

section BandH

variable {w : Nat} (hf : 1 ≤ f) (h : S < 65535 * f) (hfloor : 3 * f ≤ 2 * S) (hw : w = (2 * S + f) / (2 * f))

include hf hfloor hw in
/-- From a quotient of three halves up the rounded quotient is not below the floor of the period. -/
theorem two_le_rounded_quotient : 2 ≤ w := by
  rw [hw]
  exact (Nat.le_div_iff_mul_le (by omega)).mpr (by omega)

include hf h hfloor hw

/-- The period of band H is the rounded quotient, not clamped. -/
theorem freqConv_band_H_unclamped : freqConv S f = (max 1 ((S : Rat) / ((f : Rat) * (w : Rat))), w) := by
  have hw2 : 2 ≤ w := two_le_rounded_quotient hf hfloor hw
  have hle := rounded_quotient_le h
  exact freqConv_band_H hf h (by omega)

/-- Rounded down, the divider makes up for it. -/
theorem achievedHz_band_H_of_le (hle : w * f ≤ S) : achievedHz S (freqConv S f).1 (freqConv S f).2 = (f : Rat) := by
  have hw2 : 2 ≤ w := two_le_rounded_quotient hf hfloor hw
  have hS : (S : Rat) ≠ 0 := Nat.cast_ne_zero.mpr (by omega)
  have hle' : ((w * f : Nat) : Rat) ≤ (S : Rat) := Nat.cast_le.mpr hle
  push_cast at hle'
  have hq : 1 ≤ (S : Rat) / ((f : Rat) * (w : Rat)) := by rw [one_le_div (by positivity)]; linarith
  rw [freqConv_band_H_unclamped hf h hfloor hw, max_eq_right hq, achievedHz]
  field_simp

/-- Rounded up, the divider is at its floor. -/
theorem freqConv_band_H_of_lt (hlt : S < w * f) : freqConv S f = (1, w) := by
  have hw2 : 2 ≤ w := two_le_rounded_quotient hf hfloor hw
  have hlt' : (S : Rat) < ((w * f : Nat) : Rat) := Nat.cast_lt.mpr hlt
  push_cast at hlt'
  have hq : (S : Rat) / ((f : Rat) * (w : Rat)) ≤ 1 := by rw [div_le_one (by positivity)]; linarith
  rw [freqConv_band_H_unclamped hf h hfloor hw, max_eq_left hq]

theorem achievedHz_band_H_of_lt (hlt : S < w * f) :
    achievedHz S (freqConv S f).1 (freqConv S f).2 = (S : Rat) / (w : Rat) := by
  rw [freqConv_band_H_of_lt hf h hfloor hw hlt, achievedHz, one_mul]

end BandH

/-- The rounding of band H costs less than 1% as long as `99 w f < 100 S`. -/
theorem error_lt_one_percent_of_lt {w : Nat} (hf : 1 ≤ f) (h : S < 65535 * f) (hfloor : 3 * f ≤ 2 * S)
    (hw : w = (2 * S + f) / (2 * f)) (hlt : S < w * f) (hsmall : 99 * (w * f) < 100 * S) :
    |(f : Rat) - achievedHz S (freqConv S f).1 (freqConv S f).2| < (f : Rat) / 100 := by
  have hw2 : 2 ≤ w := two_le_rounded_quotient hf hfloor hw
  have hlt' : (S : Rat) < ((w * f : Nat) : Rat) := Nat.cast_lt.mpr hlt
  have hsmall' : ((99 * (w * f) : Nat) : Rat) < ((100 * S : Nat) : Rat) := Nat.cast_lt.mpr hsmall
  push_cast at hlt' hsmall'
  have hbelow : (S : Rat) / (w : Rat) ≤ (f : Rat) := by rw [div_le_iff₀ (by positivity)]; linarith
  rw [achievedHz_band_H_of_lt hf h hfloor hw hlt, abs_of_nonneg (by linarith), sub_lt_comm,
    lt_div_iff₀ (by positivity)]
  linarith

/-- At the reference clock rounding up stays within 1%: by the half of a period up to 2,525,252 Hz, and from there up to
2,576,788 Hz because the period is at most 49. -/
theorem rounded_up_at_reference {w : Nat} (hf : 1 ≤ f) (hmax : f ≤ 2576788) (hw : w = (2 * 125000000 + f) / (2 * f)) :
    99 * (w * f) < 100 * 125000000 := by
  obtain hlow | hhigh := lt_or_ge f 2525253
  · obtain ⟨hround, -⟩ := rounded_quotient_bounds (S := 125000000) hf
    rw [← hw] at hround
    omega
  · have hw49 : w ≤ 49 := by
      rw [hw]
      exact Nat.lt_succ_iff.mp ((Nat.div_lt_iff_lt_mul (by omega)).mpr (by omega))
    have hprod : w * f ≤ 49 * f := Nat.mul_le_mul_right f hw49
    omega

end Accuracy

/-- Settles O5: the unclamped divider cancels the period at its top. -/
theorem bandMAchievesTheRequest : Obligations.BandMAchievesTheRequest :=
  fun _ _ hf h h' => achievedHz_band_M hf h h'

/-- Settles O6: the divider makes up for a period rounded down, and rounding up is by at most one half. -/
theorem bandHErrorIsBounded : Obligations.BandHErrorIsBounded := by
  intro S f w hf h hfloor hw
  have hw2 : 2 ≤ w := two_le_rounded_quotient hf hfloor hw
  refine ⟨congrArg Prod.snd (freqConv_band_H_unclamped hf h hfloor hw), achievedHz_band_H_of_le hf h hfloor hw,
    fun hlt => ⟨congrArg Prod.fst (freqConv_band_H_of_lt hf h hfloor hw hlt), ?error, ?bound⟩⟩
  case error =>
    rw [achievedHz_band_H_of_lt hf h hfloor hw hlt]
    field_simp
  case bound =>
    obtain ⟨hround, -⟩ := rounded_quotient_bounds (S := S) hf
    rw [← hw] at hround
    have hround' : ((2 * (w * f) : Nat) : Rat) ≤ ((2 * S + f : Nat) : Rat) := Nat.cast_le.mpr hround
    push_cast at hround'
    have hhalf : (w : Rat) - (S : Rat) / (f : Rat) ≤ 1 / 2 := by
      rw [sub_le_comm, le_div_iff₀ (by positivity)]
      linarith
    calc ((w : Rat) - (S : Rat) / (f : Rat)) / (w : Rat)
        ≤ 1 / 2 / (w : Rat) := by gcongr
      _ = 1 / (2 * (w : Rat)) := by rw [div_div]

/-- Settles O7: no error in band M nor where the period is rounded down, less than 1% where it is rounded up; at
2,576,789 Hz the pair is (1, 49). -/
theorem onePercentAccuracyAtTheReferenceClock : Obligations.OnePercentAccuracyAtTheReferenceClock := by
  constructor
  · intro f hmin hmax
    have hf : 1 ≤ f := by omega
    have hexact (heq : achievedHz 125000000 (freqConv 125000000 f).1 (freqConv 125000000 f).2 = (f : Rat)) :
        |(f : Rat) - achievedHz 125000000 (freqConv 125000000 f).1 (freqConv 125000000 f).2| < (f : Rat) / 100 := by
      rw [heq, sub_self, abs_zero]
      positivity
    obtain hM | hH := le_or_gt (65535 * f) 125000000
    · exact hexact (achievedHz_band_M hf hM (by omega))
    · obtain hle | hlt := le_or_gt ((2 * 125000000 + f) / (2 * f) * f) 125000000
      · exact hexact (achievedHz_band_H_of_le hf hH (by omega) rfl hle)
      · exact error_lt_one_percent_of_lt hf hH (by omega) rfl hlt (rounded_up_at_reference hf hmax rfl)
  · have hfirst : achievedHz 125000000 (freqConv 125000000 2576789).1 (freqConv 125000000 2576789).2 =
        ((125000000 : Nat) : Rat) / ((49 : Nat) : Rat) :=
      achievedHz_band_H_of_lt (by norm_num) (by norm_num) (by norm_num) (by norm_num) (by norm_num)
    rw [hfirst]
    norm_num [abs_of_nonneg]

end Sys2Proof.Machine

/-! The register image (20_memory.md): the registers a call writes and those it leaves alone (R52 to R59), and what each
register reads after each block of calls of a command (42_controller_ops.md rules R141 to R145). -/

namespace Sys2Proof.Machine

open Sys2Proof

/-! ### The registers a call writes -/

/-- The slices whose divider or period the call writes (R52, R53). -/
@[simp] def Call.slices : Call → List SliceIx
  | .setClkDiv s _ => [s]
  | .setPeriod s _ => [s]
  | _ => []

/-- The slice and channel whose level the call writes (R54). -/
@[simp] def Call.levels : Call → List (SliceIx × Channel)
  | .setLevel s ch _ => [(s, ch)]
  | _ => []

/-- The slice whose enable bit the call writes (R55). -/
@[simp] def Call.enables : Call → List SliceIx
  | .setSliceEnabled s _ => [s]
  | _ => []

/-- The pin whose function the call writes (R56 to R58). -/
@[simp] def Call.funcs : Call → List Pin
  | .gpioDeinit p => [p]
  | .gpioInit p => [p]
  | .gpioSetFunctionPwm p => [p]
  | _ => []

/-- The pin whose output the call writes (R59). -/
@[simp] def Call.outs : Call → List Pin
  | .gpioSetOutput p _ => [p]
  | _ => []

theorem Image.sameExcept_apply (im : Image) (call : Call) :
    im.SameExcept (im.apply call) call.slices call.levels call.enables call.funcs call.outs := by
  constructor
  case div => cases call <;> simp_all
  case top => cases call <;> simp_all
  case cc => cases call <;> simp_all
  case en => cases call <;> simp_all
  case func => cases call <;> simp_all
  case out => cases call <;> simp_all

section SameExcept

variable {im im' im'' : Image} {slices slices' enables enables' : List SliceIx}
  {levels levels' : List (SliceIx × Channel)} {funcs funcs' outs outs' : List Pin}

theorem Image.SameExcept.refl (im : Image) (slices : List SliceIx) (levels : List (SliceIx × Channel))
    (enables : List SliceIx) (funcs outs : List Pin) : im.SameExcept im slices levels enables funcs outs :=
  ⟨fun _ _ => rfl, fun _ _ => rfl, fun _ _ _ => rfl, fun _ _ => rfl, fun _ _ => rfl, fun _ _ => rfl⟩

theorem Image.SameExcept.trans (h : im.SameExcept im' slices levels enables funcs outs)
    (h' : im'.SameExcept im'' slices levels enables funcs outs) :
    im.SameExcept im'' slices levels enables funcs outs where
  div s hs := (h'.div s hs).trans (h.div s hs)
  top s hs := (h'.top s hs).trans (h.top s hs)
  cc s ch hs := (h'.cc s ch hs).trans (h.cc s ch hs)
  en s hs := (h'.en s hs).trans (h.en s hs)
  func p hp := (h'.func p hp).trans (h.func p hp)
  out p hp := (h'.out p hp).trans (h.out p hp)

theorem Image.SameExcept.mono (h : im.SameExcept im' slices levels enables funcs outs) (hslices : slices ⊆ slices')
    (hlevels : levels ⊆ levels') (henables : enables ⊆ enables') (hfuncs : funcs ⊆ funcs') (houts : outs ⊆ outs') :
    im.SameExcept im' slices' levels' enables' funcs' outs' where
  div s hs := h.div s fun hm => hs (hslices hm)
  top s hs := h.top s fun hm => hs (hslices hm)
  cc s ch hs := h.cc s ch fun hm => hs (hlevels hm)
  en s hs := h.en s fun hm => hs (henables hm)
  func p hp := h.func p fun hm => hp (hfuncs hm)
  out p hp := h.out p fun hm => hp (houts hm)

end SameExcept

/-- A list of calls writes what its calls write. -/
theorem Image.sameExcept_applyAll (im : Image) (calls : List Call) :
    im.SameExcept (im.applyAll calls) (calls.flatMap Call.slices) (calls.flatMap Call.levels)
      (calls.flatMap Call.enables) (calls.flatMap Call.funcs) (calls.flatMap Call.outs) := by
  induction calls generalizing im with
  | nil => exact .refl im _ _ _ _ _
  | cons call calls ih =>
    simp only [List.flatMap_cons, Image.applyAll_cons]
    have hcall := (im.sameExcept_apply call).mono (List.subset_append_left _ (calls.flatMap Call.slices))
      (List.subset_append_left _ (calls.flatMap Call.levels)) (List.subset_append_left _ (calls.flatMap Call.enables))
      (List.subset_append_left _ (calls.flatMap Call.funcs)) (List.subset_append_left _ (calls.flatMap Call.outs))
    have hcalls := (ih (im.apply call)).mono (List.subset_append_right call.slices _)
      (List.subset_append_right call.levels _) (List.subset_append_right call.enables _)
      (List.subset_append_right call.funcs _) (List.subset_append_right call.outs _)
    exact hcall.trans hcalls

/-- R63: a call is a write of one whole register, so the second of two equal calls finds it written. -/
theorem Image.apply_apply_same (im : Image) (call : Call) : (im.apply call).apply call = im.apply call := by
  cases call <;> apply Image.eq_of_reads <;> simp +contextual

/-- Settles O37: each call writes its own register, and its footprint is the list of that register alone. -/
theorem eachCallWritesOneRegister : Obligations.EachCallWritesOneRegister := by
  intro im s ch p d v b
  refine ⟨⟨?_, im.sameExcept_apply _, ?_⟩, ⟨?_, im.sameExcept_apply _, ?_⟩, ⟨?_, im.sameExcept_apply _⟩,
    ⟨?_, im.sameExcept_apply _⟩, ⟨?_, im.sameExcept_apply _⟩, ⟨?_, im.sameExcept_apply _⟩,
    ⟨?_, im.sameExcept_apply _⟩, ⟨?_, im.sameExcept_apply _⟩, im.apply_apply_same⟩
  all_goals simp

/-! ### The blocks of calls -/

section Blocks

variable (im : Image) (c : Controller)

/-- BindPin (R141): the pin is a software pin for the moment between its two calls. -/
@[simp] theorem Image.applyAll_bindPin :
    im.applyAll c.bindPin = (im.setFunc c.pin .sio).setFunc c.pin .pwm := rfl

/-- The level call of ProgramTiming and of ON (R142, R147). -/
@[simp] theorem Image.applyAll_programLevel :
    im.applyAll c.programLevel = im.setCc c.slice c.channel c.level := rfl

/-- What SETGPIO does to the old slice and pin (R145). -/
@[simp] theorem Image.applyAll_release :
    im.applyAll c.release = (im.setEn c.slice false).setFunc c.pin .none := rfl

/-- ApplyEnable of an enabled controller (R143). -/
theorem Image.applyAll_applyEnable_of_enabled (h : c.enabled = true) :
    im.applyAll c.applyEnable = (im.setFunc c.pin .pwm).setEn c.slice true := by
  simp [Controller.applyEnable, h]

/-- ApplyEnable of a disabled controller (R143). -/
theorem Image.applyAll_applyEnable_of_disabled (h : c.enabled = false) :
    im.applyAll c.applyEnable = ((im.setEn c.slice false).setFunc c.pin .sio).setOut c.pin false := by
  simp [Controller.applyEnable, h]

/-! ### The registers after ApplyEnable, whatever the flag -/

variable (i : SliceIx) (ch : Channel) (p : Pin)

@[simp] theorem Image.div_applyEnable : (im.applyAll c.applyEnable).div i = im.div i := by
  cases h : c.enabled <;> simp [applyAll_applyEnable_of_enabled, applyAll_applyEnable_of_disabled, h]

@[simp] theorem Image.top_applyEnable : (im.applyAll c.applyEnable).top i = im.top i := by
  cases h : c.enabled <;> simp [applyAll_applyEnable_of_enabled, applyAll_applyEnable_of_disabled, h]

@[simp] theorem Image.cc_applyEnable : (im.applyAll c.applyEnable).cc i ch = im.cc i ch := by
  cases h : c.enabled <;> simp [applyAll_applyEnable_of_enabled, applyAll_applyEnable_of_disabled, h]

@[simp] theorem Image.en_applyEnable :
    (im.applyAll c.applyEnable).en i = if i = c.slice then some c.enabled else im.en i := by
  cases h : c.enabled <;> simp [applyAll_applyEnable_of_enabled, applyAll_applyEnable_of_disabled, h]

@[simp] theorem Image.func_applyEnable : (im.applyAll c.applyEnable).func p =
    if p = c.pin then some (if c.enabled then .pwm else .sio) else im.func p := by
  cases h : c.enabled <;> simp [applyAll_applyEnable_of_enabled, applyAll_applyEnable_of_disabled, h]

@[simp] theorem Image.out_applyEnable : (im.applyAll c.applyEnable).out p =
    if c.enabled = false ∧ p = c.pin then some false else im.out p := by
  cases h : c.enabled <;> simp [applyAll_applyEnable_of_enabled, applyAll_applyEnable_of_disabled, h]

end Blocks

/-! ### Agreement with a controller -/

section Agreement

variable {im im' : Image} {c : Controller}

/-- ProgramTiming leaves the timing of its controller in the image (I3, R142). -/
theorem Controller.timingIn_programTiming (im : Image) (c : Controller) : c.TimingIn (im.applyAll c.programTiming) := by
  simp [TimingIn, Image.applyAll_programTiming]

/-- ApplyEnable writes no divider, no period and no level. -/
theorem Controller.timingIn_applyEnable {d : Controller} :
    c.TimingIn (im.applyAll d.applyEnable) ↔ c.TimingIn im := by
  simp [TimingIn]

/-- ProgramTiming followed by ApplyEnable leaves the timing, whatever was called before. -/
theorem Controller.timingIn_programmed (im : Image) (before : List Call) (c : Controller) :
    c.TimingIn (im.applyAll (before ++ c.programTiming ++ c.applyEnable)) := by
  rw [Image.applyAll_append, Image.applyAll_append, timingIn_applyEnable]
  exact c.timingIn_programTiming _

/-- ApplyEnable makes the output agree with the flag (I4, R143). -/
theorem Controller.outputIn_applyEnable (im : Image) (c : Controller) : c.OutputIn (im.applyAll c.applyEnable) := by
  cases h : c.enabled <;> simp [OutputIn, h]

/-- Agreement is about six registers: an image that keeps them agrees too. -/
theorem Controller.AgreesWith.of_sameExcept {slices enables : List SliceIx} {levels : List (SliceIx × Channel)}
    {funcs outs : List Pin} (h : c.AgreesWith im) (hsame : im.SameExcept im' slices levels enables funcs outs)
    (hslices : c.slice ∉ slices) (hlevels : (c.slice, c.channel) ∉ levels) (henables : c.slice ∉ enables)
    (hfuncs : c.pin ∉ funcs) (houts : c.pin ∉ outs) : c.AgreesWith im' := by
  simpa only [AgreesWith, TimingIn, OutputIn, hsame.div _ hslices, hsame.top _ hslices, hsame.cc _ _ hlevels,
    hsame.en _ henables, hsame.func _ hfuncs, hsame.out _ houts] using h

theorem Controller.TopologyHolds.slice_eq (h : c.TopologyHolds) : c.slice = (topo c.pin).1 := congrArg Prod.fst h

theorem Controller.TopologyHolds.channel_eq (h : c.TopologyHolds) : c.channel = (topo c.pin).2 := congrArg Prod.snd h

theorem Controller.OutputIn.en_eq (h : c.OutputIn im) : im.en c.slice = some c.enabled := by
  cases hon : c.enabled <;> simp_all [OutputIn]

theorem Controller.OutputIn.func_eq (h : c.OutputIn im) :
    im.func c.pin = some (if c.enabled then .pwm else .sio) := by
  cases hon : c.enabled <;> simp_all [OutputIn]

theorem Controller.OutputIn.out_eq (h : c.OutputIn im) (hoff : c.enabled = false) : im.out c.pin = some false := by
  simp_all [OutputIn]

/-- A disabled controller's pin is a software pin with a low output (R43). -/
theorem Controller.OutputIn.pinDrive_of_disabled (h : c.OutputIn im) (hoff : c.enabled = false) :
    im.pinDrive c.pin = .low := by
  simp [Image.pinDrive, h.func_eq, h.out_eq hoff, hoff]

/-- An enabled controller's pin carries the waveform of the slice and channel it belongs to (R43). -/
theorem Controller.OutputIn.pinDrive_of_enabled (h : c.OutputIn im) (htopo : c.TopologyHolds)
    (hon : c.enabled = true) : im.pinDrive c.pin = .pwm c.slice c.channel := by
  have hen : im.en (topo c.pin).1 = some true := by rw [← htopo.slice_eq, h.en_eq, hon]
  simp [Image.pinDrive, h.func_eq, hen, hon, htopo.slice_eq, htopo.channel_eq]

end Agreement

end Sys2Proof.Machine

/-! The invariants that tie attributes, image, responses and fault register together (10_state.md rules R32, R33, R46,
30_encoding.md rule R88, 60_exceptions.md rule R180): what a command's effect leaves in the image, and that every step
keeps them. -/

namespace Sys2Proof.Machine

open Sys2Proof

/-! ### What the effect of a command leaves in the image -/

section EffectImage

variable {cfg : Config} {i : Instr} {slot : Option Controller} {c : Controller} {calls : List Call}

/-- Every command that completes ends with ApplyEnable (R143). -/
theorem Effect.calls_end_in_applyEnable (h : Effect cfg i slot c calls) :
    ∃ before, calls = before ++ c.applyEnable := by
  cases h with
  | off => exact ⟨[], rfl⟩
  | _ => exact ⟨_, rfl⟩

/-- So every command leaves the output as its flag says (I4). -/
theorem Effect.outputIn (h : Effect cfg i slot c calls) (im : Image) : c.OutputIn (im.applyAll calls) := by
  obtain ⟨before, rfl⟩ := h.calls_end_in_applyEnable
  rw [Image.applyAll_append]
  exact Controller.outputIn_applyEnable _ c

/-- A command programs the timing, or it keeps divider and period and programs what changes of the level (I3). -/
theorem Effect.timingIn {im : Image} (h : Effect cfg i slot c calls)
    (hold : ∀ old, slot = some old → old.TimingIn im) : c.TimingIn (im.applyAll calls) := by
  cases h with
  | construct p f => exact Controller.timingIn_programmed im _ _
  | setGpio p old => exact Controller.timingIn_programmed im _ _
  | setFreq f old => exact Controller.timingIn_programmed im [] _
  | on d hd old _ hc =>
    obtain ⟨-, hdiv, htop⟩ := hold old rfl
    rw [Image.applyAll_append, Controller.timingIn_applyEnable]
    subst hc
    simpa [Controller.TimingIn] using ⟨hdiv, htop⟩
  | off old _ hc =>
    have htiming : old.TimingIn im := hold old rfl
    rw [Controller.timingIn_applyEnable]
    subst hc
    exact htiming

theorem Effect.agreesWith {im : Image} (h : Effect cfg i slot c calls)
    (hold : ∀ old, slot = some old → old.AgreesWith im) : c.AgreesWith (im.applyAll calls) :=
  ⟨h.timingIn fun old ho => (hold old ho).1, h.outputIn im⟩

/-- Whatever the command, it writes the registers of its own slice, channel and pin: those of the attributes it leaves
and those of the attributes before it. -/
theorem Effect.sameExcept_owners (h : Effect cfg i slot c calls) (im : Image) :
    im.SameExcept (im.applyAll calls) ((c :: slot.toList).map Controller.slice)
      ((c :: slot.toList).map fun d => (d.slice, d.channel)) ((c :: slot.toList).map Controller.slice)
      ((c :: slot.toList).map Controller.pin) ((c :: slot.toList).map Controller.pin) := by
  have hwrites := im.sameExcept_applyAll calls
  cases h with
  | construct p f =>
    apply hwrites.mono <;>
      simp [Controller.bindPin, Controller.programTiming, Controller.programLevel, Controller.applyEnable]
  | setGpio p old =>
    cases hon : old.enabled <;> apply hwrites.mono <;>
      simp [Controller.release, Controller.bindPin, Controller.programTiming, Controller.programLevel,
        Controller.applyEnable, hon]
  | setFreq f old =>
    cases hon : old.enabled <;> apply hwrites.mono <;>
      simp [Controller.programTiming, Controller.programLevel, Controller.applyEnable, hon]
  | on d hd old _ hc =>
    subst hc
    apply hwrites.mono <;> simp [Controller.programLevel, Controller.applyEnable]
  | off old _ hc =>
    subst hc
    apply hwrites.mono <;> simp [Controller.applyEnable]

/-- A controller on another slice and another pin than the command's does not notice the command. -/
theorem Effect.keeps_agreement_of_other {im : Image} {d : Controller} (h : Effect cfg i slot c calls)
    (hother : ∀ o ∈ c :: slot.toList, o.slice ≠ d.slice ∧ o.pin ≠ d.pin) (hd : d.AgreesWith im) :
    d.AgreesWith (im.applyAll calls) := by
  have hslice : d.slice ∉ (c :: slot.toList).map Controller.slice := fun hmem => by
    obtain ⟨o, ho, heq⟩ := List.mem_map.mp hmem
    exact (hother o ho).1 heq
  have hlevel : (d.slice, d.channel) ∉ (c :: slot.toList).map fun o => (o.slice, o.channel) := fun hmem => by
    obtain ⟨o, ho, heq⟩ := List.mem_map.mp hmem
    exact (hother o ho).1 (congrArg Prod.fst heq)
  have hpin : d.pin ∉ (c :: slot.toList).map Controller.pin := fun hmem => by
    obtain ⟨o, ho, heq⟩ := List.mem_map.mp hmem
    exact (hother o ho).2 heq
  exact hd.of_sameExcept (h.sameExcept_owners im) hslice hlevel hslice hpin hpin

end EffectImage

/-! ### Image and attributes of an exclusive instance -/

/-- Pins of different slices are different pins. -/
theorem Controller.pin_ne_of_slice_ne {c d : Controller} (hc : c.TopologyHolds) (hd : d.TopologyHolds)
    (h : d.slice ≠ c.slice) : d.pin ≠ c.pin := fun hpin =>
  h (by rw [hc.slice_eq, hd.slice_eq, hpin])

theorem exec_keeps_agreement {i : Instr} {s t : State} {k : Nat} (hwf : s.AttributesWf) (hs : s.Exclusive k)
    (ht : t.Exclusive k) (hagree : ∀ c, s.Holds k c → c.AgreesWith s.image) (hexec : exec i s = .next t) :
    ∀ c, t.Holds k c → c.AgreesWith t.image := by
  have htwf : t.AttributesWf := exec_keeps_attributesWf hwf hexec
  obtain ⟨-, slot, hslot, ⟨new, calls, heffect, rfl⟩ | ⟨cause, info, -, rfl⟩⟩ := exec_next hexec
  · intro c hc
    obtain ⟨rfl, rfl⟩ | ⟨hk, hold⟩ := State.holds_of_complete hc
    · exact heffect.agreesWith fun old ho => hagree old (hslot.trans (congrArg some ho))
    · refine heffect.keeps_agreement_of_other (fun o ho => ?_) (hagree c hold)
      have hctopo : c.TopologyHolds := (hwf.2 k c hold).1
      obtain rfl | ho := List.mem_cons.mp ho
      · have hnew := State.holds_complete hslot o calls
        have hslice : o.slice ≠ c.slice := ht c hc s.port o hk.symm hnew
        exact ⟨hslice, Controller.pin_ne_of_slice_ne hctopo (htwf.2 _ o hnew).1 hslice⟩
      · have hold' : s.Holds s.port o := hslot.trans (congrArg some (Option.mem_toList.mp ho))
        have hslice : o.slice ≠ c.slice := hs c hold s.port o hk.symm hold'
        exact ⟨hslice, Controller.pin_ne_of_slice_ne hctopo (hwf.2 _ o hold').1 hslice⟩
  · exact hagree

/-- Settles O52: the instance's own command leaves the image as its attributes say, and a command of another instance
writes other slices and other pins. -/
theorem everyStepKeepsTheImageOfAnExclusiveInstance : Obligations.EveryStepKeepsTheImageOfAnExclusiveInstance := by
  intro s t k hwf hs ht hagree hstep
  obtain ⟨rest, -, rfl⟩ | ⟨j, w, rest, -, -, -, ⟨i, -, hexec⟩ | ⟨_, -, rfl⟩⟩ := step_next hstep
  · exact fun c hc => absurd hc (State.not_holds_assertReset s rest k c)
  · exact exec_keeps_agreement (hwf.present j rest) hs ht hagree hexec
  · exact hagree

/-- In a system of one instance that instance has its slice to itself. -/
theorem State.exclusive_of_one {s : State} (h : s.inst.length = 1) : s.Exclusive 0 := by
  intro c _ j d hj hd
  have hlt : j < s.inst.length := (List.getElem?_eq_some_iff.mp hd).1
  omega

theorem step_keeps_count {s t : State} (hstep : step s = .next t) : t.inst.length = s.inst.length := by
  obtain ⟨rest, -, rfl⟩ | ⟨_, _, _, _, -, -, hcalls⟩ := step_makesCalls hstep
  · simp
  · exact hcalls.count

/-- Settles O53: one instance is exclusive, and what its pin is driven with follows from its output registers. -/
theorem oneInstanceDrivesItsPinAsItsFlagSays : Obligations.OneInstanceDrivesItsPinAsItsFlagSays := by
  intro s t hone hwf hagree hstep
  have hone' : t.inst.length = 1 := (step_keeps_count hstep).trans hone
  have hwf' : t.AttributesWf := step_keeps_attributesWf hwf hstep
  refine ⟨hone', hwf', fun c hc => ?_⟩
  have hagree' : c.AgreesWith t.image := everyStepKeepsTheImageOfAnExclusiveInstance s t 0 hwf
    (State.exclusive_of_one hone) (State.exclusive_of_one hone') hagree hstep c hc
  have ⟨_, houtput⟩ := hagree'
  exact ⟨hagree', houtput.pinDrive_of_enabled (hwf'.2 0 c hc).1, houtput.pinDrive_of_disabled⟩

/-! ### One answer per command -/

/-- The command leads from `s` to `t` with this one answer, which is OK exactly when no fault is recorded (R88). -/
structure State.Answers (s t : State) (r : Response) : Prop where
  responses : t.responses = s.responses ++ [r]
  agrees : r = (match t.fault with | none => .ok | some record => .fault record.cause)

theorem State.answers_takeFault (s : State) (cause : Cause) (info : FaultInfo) :
    s.Answers (s.takeFault cause info) (.fault cause) := ⟨rfl, rfl⟩

theorem State.answers_complete {s : State} (hf : s.Running) (c : Controller) (calls : List Call) :
    s.Answers (s.complete c calls) .ok := by
  have hf' : (s.complete c calls).fault = none := hf
  exact ⟨rfl, by rw [hf']⟩

theorem exec_answers_once {i : Instr} {s t : State} (hexec : exec i s = .next t) : ∃ r, s.Answers t r := by
  obtain ⟨hf, _, -, ⟨c, calls, -, rfl⟩ | ⟨cause, info, -, rfl⟩⟩ := exec_next hexec
  · exact ⟨_, s.answers_complete hf c calls⟩
  · exact ⟨_, s.answers_takeFault cause info⟩

/-- Selecting the port and consuming the input answers nothing. -/
theorem State.Answers.of_present {s t : State} {k : Nat} {rest : List HostInput} {r : Response}
    (h : (s.present k rest).Answers t r) : s.Answers t r := ⟨h.responses, h.agrees⟩

theorem State.Answers.ok_iff {s t : State} {r : Response} (h : s.Answers t r) : r = .ok ↔ t.fault = none := by
  rw [h.agrees]
  cases t.fault <;> simp

/-- A running system has answered OK so far, so one more answer is one more OK, or the FAULT at the end. -/
theorem State.AnswersAgree.of_answers {s t : State} {r : Response} (hs : s.AnswersAgree) (hf : s.Running)
    (h : s.Answers t r) : t.AnswersAgree := by
  obtain ⟨n, hn⟩ := hs
  obtain ⟨hresponses, hagrees⟩ := h
  have hf' : s.fault = none := hf
  have hok : s.responses = List.replicate n .ok := by simpa [hf'] using hn
  rw [hok, hagrees] at hresponses
  cases ht : t.fault with
  | none => exact ⟨n + 1, by simp [hresponses, ht, List.replicate_succ']⟩
  | some record => exact ⟨n, by simp [hresponses, ht]⟩

/-- A step is a reset, or a command of a running system that is answered once. -/
theorem step_answers {s t : State} (hstep : step s = .next t) :
    (∃ rest, s.inputs = .reset :: rest ∧ t = s.assertReset rest) ∨
    (s.Running ∧ ∃ k w rest r, s.inputs = .command k w :: rest ∧ s.Answers t r) := by
  obtain hreset | ⟨k, w, rest, hin, hf, -, ⟨i, -, hexec⟩ | ⟨_, -, rfl⟩⟩ := step_next hstep
  · exact .inl hreset
  · obtain ⟨r, hr⟩ := exec_answers_once hexec
    exact .inr ⟨hf, k, w, rest, r, hin, hr.of_present⟩
  · exact .inr ⟨hf, k, w, rest, _, hin, ((s.present k rest).answers_takeFault .illegalCommand (.word w)).of_present⟩

theorem State.answersAgree_assertReset (s : State) (rest : List HostInput) : (s.assertReset rest).AnswersAgree :=
  ⟨0, rfl⟩

/-- Settles O54: a reset empties the responses, and a command adds the one answer that its fault register says. -/
theorem everyStepKeepsTheAnswersInAgreement : Obligations.EveryStepKeepsTheAnswersInAgreement := by
  intro s t hs hstep
  obtain ⟨rest, hin, rfl⟩ | ⟨hf, k, w, rest, r, -, hr⟩ := step_answers hstep
  · refine ⟨s.answersAgree_assertReset rest, fun k w rest' hin' => ?_⟩
    exact absurd (hin.symm.trans hin') (by simp)
  · exact ⟨hs.of_answers hf hr, fun _ _ _ _ => ⟨r, hr.responses, hr.ok_iff⟩⟩

/-! ### What the fault register can hold -/

/-- A command that has a word is turned away with a record of the shape its cause says (R180). -/
theorem TurnedAway.record_wf {i : Instr} {slot : Option Controller} {cause : Cause} {info : FaultInfo} {k n : Nat}
    (h : TurnedAway i slot cause info) (hi : i.wellFormed = true) (hk : k < n) :
    (FaultRecord.mk cause k info).Wf n := by
  refine ⟨hk, ?_⟩
  cases h with
  | constructTwice p f c => exact ⟨_, decode_encode hi⟩
  | notConstructed i _ => exact ⟨i, decode_encode hi⟩
  | constructPin p f hp => simpa [Instr.wellFormed, fitsFieldA, hp, and_assoc] using hi
  | setGpioPin p c hp => simpa [Instr.wellFormed, fitsFieldA, hp, and_assoc] using hi
  | onDuty d c hd => simpa [Instr.wellFormed, fitsFieldA, hd, and_assoc] using hi

theorem State.FaultWf.complete {s : State} (h : s.FaultWf) (c : Controller) (calls : List Call) :
    (s.complete c calls).FaultWf := by
  intro r hr
  simpa using h r hr

theorem State.faultWf_takeFault {s : State} {cause : Cause} {info : FaultInfo}
    (h : (FaultRecord.mk cause s.port info).Wf s.inst.length) : (s.takeFault cause info).FaultWf := by
  intro r hr
  cases hr
  exact h

theorem exec_keeps_faultWf {i : Instr} {s t : State} (hs : s.FaultWf) (hi : i.wellFormed = true)
    (hexec : exec i s = .next t) : t.FaultWf := by
  obtain ⟨-, slot, hslot, ⟨c, calls, -, rfl⟩ | ⟨cause, info, haway, rfl⟩⟩ := exec_next hexec
  · exact hs.complete c calls
  · exact State.faultWf_takeFault (haway.record_wf hi (State.port_lt hslot))

/-- Settles O55: a decoded command has a word, so its operand is one of field A and its encoding decodes. -/
theorem everyStepKeepsTheFaultRecordLegal : Obligations.EveryStepKeepsTheFaultRecordLegal := by
  intro s t hs hstep
  obtain ⟨rest, -, rfl⟩ | ⟨k, w, rest, -, -, hk, ⟨i, hi, hexec⟩ | ⟨why, hwhy, rfl⟩⟩ := step_next hstep
  · exact fun r hr => absurd hr (by simp)
  · exact exec_keeps_faultWf (s := s.present k rest) hs (wellFormed_of_decode hi) hexec
  · exact State.faultWf_takeFault ⟨hk, why, hwhy⟩

end Sys2Proof.Machine

/-! The step (42_controller_ops.md rule R140): where the host's next input leads, the reset state (10_state.md rule
R45), runs (70_reset_and_hazards.md rule R224), and the state each command leaves where it completes or faults. -/

namespace Sys2Proof.Machine

open Sys2Proof

/-! ### The host's next input -/

section NextInput

variable {s : State} {k : Nat} {w : CommandWord} {rest : List HostInput}

theorem step_of_no_input (hin : s.inputs = []) : step s = .refused .noCommand := by
  simp only [step, fetch, hin]

theorem step_of_reset (hin : s.inputs = .reset :: rest) : step s = .next (s.assertReset rest) := by
  simp only [step, fetch, hin]

theorem step_of_command_halted {r : FaultRecord} (hr : s.fault = some r) (hin : s.inputs = .command k w :: rest) :
    step s = .fault .halted := by
  simp only [step, fetch, hin, hr]

section Running

variable (hin : s.inputs = .command k w :: rest) (hf : s.Running)

include hin hf

theorem step_of_command_noSuchPort (hk : s.inst.length ≤ k) : step s = .refused .noSuchPort := by
  have hf' : s.fault = none := hf
  simp only [step, fetch, hin, hf', if_neg (Nat.not_lt.mpr hk)]

theorem step_of_command {i : Instr} (hk : k < s.inst.length) (hi : decode w = .command i) :
    step s = exec i (s.present k rest) := by
  have hf' : s.fault = none := hf
  simp only [step, fetch, hin, hf', if_pos hk, hi]

theorem step_of_reserved {why : Reserved} (hk : k < s.inst.length) (hwhy : decode w = .reserved why) :
    step s = .next ((s.present k rest).takeFault .illegalCommand (.word w)) := by
  have hf' : s.fault = none := hf
  simp only [step, fetch, hin, hf', if_pos hk, hwhy]

end Running

end NextInput

/-- Settles O14: the fetched command executes in the state with its port selected and the input consumed. -/
theorem stepRunsTheDecodedCommand : Obligations.StepRunsTheDecodedCommand :=
  fun _ _ _ _ _ hin hf hk hi => step_of_command hin hf hk hi

/-- Settles O15: fault entry from the decoder, at the port presented. -/
theorem reservedWordTakesIllegalCommand : Obligations.ReservedWordTakesIllegalCommand :=
  fun _ _ _ _ _ hin hf hk hwhy => step_of_reserved hin hf hk hwhy

/-- Settles O16: the halt stops `step` and `exec`, and the two refusals are decided before any command executes. -/
theorem whereThereIsNoStep : Obligations.WhereThereIsNoStep := fun _ _ _ _ =>
  ⟨fun _ hr hin => step_of_command_halted hr hin, fun _ i hr => exec_halted hr i, step_of_no_input,
    fun hf hin hk => step_of_command_noSuchPort hin hf hk⟩

/-- Settles O18: the reset state, with what the host presents next. -/
theorem resetInputEntersTheResetState : Obligations.ResetInputEntersTheResetState :=
  fun _ _ hin => step_of_reset hin

/-! ### The reset state -/

theorem Image.pinDrive_unwritten (p : Pin) : Image.unwritten.pinDrive p = .unspecified := by
  simp [Image.pinDrive]

theorem State.not_holds_resetOf (cfg : Config) (n k : Nat) (c : Controller) : ¬ (State.resetOf cfg n).Holds k c := by
  simp [List.getElem?_replicate]

/-- Settles O17: every instance and every register is at its one initial value, and so is the reference system. -/
theorem resetStateHoldsNothing : Obligations.ResetStateHoldsNothing := by
  refine ⟨fun cfg n => ⟨by simp, fun k hk => by simp [hk], rfl, fun sl => by simp, fun p => ?_⟩,
    Config.reference, Config.resetInstances, rfl, by decide, by decide⟩
  simp [Image.pinDrive_unwritten]

/-- Settles O56: nothing is constructed, traced, answered or recorded, so every invariant is about nothing. -/
theorem resetStateHasEveryInvariant : Obligations.ResetStateHasEveryInvariant := by
  intro cfg n hcfg
  have hnone : ∀ k c, ¬ (State.resetOf cfg n).Holds k c := State.not_holds_resetOf cfg n
  refine ⟨⟨hcfg, fun k c hc => absurd hc (hnone k c)⟩, ⟨rfl, by simp⟩, ⟨0, rfl⟩, fun r hr => absurd hr (by simp),
    fun k => ⟨fun c hc => absurd hc (hnone k c), fun c hc => absurd hc (hnone k c)⟩⟩

/-! ### Runs -/

/-- With an input that names an existing port a running system steps, and consumes it. -/
theorem step_of_running {s : State} {input : HostInput} {rest : List HostInput} (hf : s.Running) (hports : s.PortsExist)
    (hin : s.inputs = input :: rest) : ∃ t, step s = .next t ∧ t.inputs = rest := by
  cases input with
  | reset => exact ⟨_, step_of_reset hin, rfl⟩
  | command k w =>
    have hk : k < s.inst.length := hports k w (by simp [hin])
    cases hd : decode w with
    | reserved why => exact ⟨_, step_of_reserved hin hf hk hd, rfl⟩
    | command i =>
      have hslot : (s.present k rest).inst[k]? = some s.inst[k] := List.getElem?_eq_getElem hk
      rw [step_of_command hin hf hk hd]
      obtain ⟨c, calls, heffect⟩ | ⟨cause, info, haway⟩ := effect_or_turnedAway s.config i s.inst[k]
      · exact ⟨_, exec_of_effect (s := s.present k rest) hf hslot heffect, rfl⟩
      · exact ⟨_, exec_of_turnedAway (s := s.present k rest) hf hslot haway, rfl⟩

/-- Ports that exist before a step exist after it. -/
theorem State.PortsExist.of_step {s t : State} {input : HostInput} (hports : s.PortsExist) (hstep : step s = .next t)
    (hin : s.inputs = input :: t.inputs) : t.PortsExist := by
  intro k w hmem
  rw [step_keeps_count hstep]
  exact hports k w (by rw [hin]; exact List.mem_cons_of_mem input hmem)

/-- Settles O58: each step consumes one input, so a run ends with the inputs unless a fault ends it first. -/
theorem everyRunCompletesOrFaults : Obligations.EveryRunCompletesOrFaults := by
  intro s hf hports
  generalize hinputs : s.inputs = inputs
  induction inputs generalizing s with
  | nil => exact ⟨s, .refl s, .inl ⟨hinputs, hf⟩⟩
  | cons input rest ih =>
    obtain ⟨t, hstep, rfl⟩ := step_of_running hf hports hinputs
    by_cases ht : t.fault = none
    · obtain ⟨u, hreach, hover⟩ := ih t ht (hports.of_step hstep hinputs) rfl
      exact ⟨u, .head hstep hreach, hover⟩
    · exact ⟨t, .head hstep (.refl t), .inr ht⟩

/-! ### Constructed until reset -/

theorem exec_keeps_config {i : Instr} {s t : State} (hexec : exec i s = .next t) : t.config = s.config := by
  obtain ⟨-, _, -, ⟨c, calls, -, rfl⟩ | ⟨cause, info, -, rfl⟩⟩ := exec_next hexec
  · rfl
  · rfl

theorem exec_keeps_constructed {i : Instr} {s t : State} {k : Nat} {c : Controller} (hc : s.Holds k c)
    (hexec : exec i s = .next t) : ∃ c', t.Holds k c' := by
  obtain ⟨-, slot, hslot, ⟨new, calls, -, rfl⟩ | ⟨cause, info, -, rfl⟩⟩ := exec_next hexec
  · by_cases hk : k = s.port
    · exact ⟨new, hk ▸ State.holds_complete hslot new calls⟩
    · exact ⟨c, (State.inst_complete_of_ne s new calls hk).trans hc⟩
  · exact ⟨c, hc⟩

theorem step_keeps_config {s t : State} (hstep : step s = .next t) : t.config = s.config := by
  obtain ⟨rest, -, rfl⟩ | ⟨k, w, rest, -, -, -, ⟨i, -, hexec⟩ | ⟨_, -, rfl⟩⟩ := step_next hstep
  · rfl
  · exact exec_keeps_config (s := s.present k rest) hexec
  · rfl

/-- Settles O57: a command replaces attributes by attributes, and only the reset input takes an instance away. -/
theorem constructedUntilReset : Obligations.ConstructedUntilReset := by
  intro s t hstep
  refine ⟨step_keeps_config hstep, step_keeps_count hstep, fun hreset k c hc => ?_⟩
  obtain ⟨rest, hin, -⟩ | ⟨j, w, rest, -, -, -, ⟨i, -, hexec⟩ | ⟨_, -, rfl⟩⟩ := step_next hstep
  · exact absurd hin (hreset rest)
  · exact exec_keeps_constructed (s := s.present j rest) hc hexec
  · exact ⟨c, hc⟩

/-! ### Where the commands complete -/

/-- The completed state of an effect, its attributes and calls written in another way. -/
theorem exec_of_effect_eq {i : Instr} {s : State} {slot : Option Controller} {c c' : Controller}
    {calls calls' : List Call} (hf : s.Running) (hs : s.inst[s.port]? = some slot) (h : Effect s.config i slot c calls)
    (hc : c = c') (hcalls : calls = calls') : exec i s = .next (s.complete c' calls') := by
  subst hc hcalls
  exact exec_of_effect hf hs h

theorem Controller.level_fresh (cfg : Config) (p : Pin) (f : Freq) : (Controller.fresh cfg p f).level = 0#16 := by
  simp [Controller.level, Sys2Proof.Machine.level]

/-- Settles O20: the effect of CONSTRUCT, its attributes and its eight calls written out. -/
theorem constructCompletes : Obligations.ConstructCompletes := by
  rintro s p f sl ch d w calls hf hs htopo hfreq rfl
  refine exec_of_effect_eq hf hs (.construct p f) ?attributes ?calls
  case attributes => simp [Controller.fresh, htopo, hfreq, enabledAfter]
  case calls =>
    simp [Controller.bindPin, Controller.programTiming, Controller.programLevel, Controller.applyEnable,
      Controller.level_fresh, htopo, hfreq]

/-- Settles O21: the effect of SETGPIO, its binding and its calls written out for either flag. -/
theorem setGpioCompletes : Obligations.SetGpioCompletes := by
  rintro s c p sl ch calls ⟨hf, hc⟩ htopo rfl
  refine exec_of_effect_eq hf hc (.setGpio p c) ?attributes ?calls
  case attributes => simp [Controller.bind, htopo]
  case calls =>
    simp [Controller.release, Controller.bindPin, Controller.programTiming, Controller.programLevel,
      Controller.applyEnable, Controller.level, Sys2Proof.Machine.level, levelNat, htopo]

/-- The level for a new frequency is that of the exact wrap. -/
theorem Controller.level_retune (c : Controller) (cfg : Config) (f : Freq) : (c.retune cfg f).level =
    BitVec.ofNat 16 (levelNat (freqConv cfg.S f.toNat).2 c.dutyCyclePercent.toNat) := by
  rw [Controller.level, Sys2Proof.Machine.level, wrap_retune, toNat_ofNat_freqConv_wrap, dutyCyclePercent_retune]

theorem Controller.applyEnable_retune (c : Controller) (cfg : Config) (f : Freq) :
    (c.retune cfg f).applyEnable = c.applyEnable := rfl

/-- Settles O22: the effect of SETFREQ, its pair and its calls written out for either flag. -/
theorem setFreqCompletes : Obligations.SetFreqCompletes := by
  rintro s c f d w calls ⟨hf, hc⟩ hfreq rfl
  refine exec_of_effect_eq hf hc (.setFreq f c) ?attributes ?calls
  case attributes => simp [Controller.retune, hfreq]
  case calls =>
    rw [Controller.applyEnable_retune]
    simp [Controller.programTiming, Controller.programLevel, Controller.applyEnable, Controller.level_retune, levelNat,
      hfreq]

/-- ON with a duty in range, as an effect on the number itself. -/
theorem Effect.on_ofNat (cfg : Config) (c : Controller) {d : Nat} (hd : d ≤ 100) :
    Effect cfg (.on d) (some c) { c with dutyCyclePercent := BitVec.ofNat 7 d, enabled := true }
      [.setLevel c.slice c.channel (BitVec.ofNat 16 (levelNat c.wrap.toNat d)), .gpioSetFunctionPwm c.pin,
        .setSliceEnabled c.slice true] := by
  have hduty : (BitVec.ofNat 7 d).toNat = d := toNat_ofNat_duty hd
  have heffect := Effect.on (cfg := cfg) (BitVec.ofNat 7 d) (hduty.trans_le hd) c _ rfl
  simpa [Controller.programLevel, Controller.applyEnable, Controller.level, Sys2Proof.Machine.level, hduty]
    using heffect

/-- Settles O23: the effect of ON. -/
theorem onCompletes : Obligations.OnCompletes := by
  rintro s c d calls ⟨hf, hc⟩ hd rfl
  exact exec_of_effect hf hc (.on_ofNat s.config c hd)

/-- Settles O24: the effect of OFF. -/
theorem offCompletes : Obligations.OffCompletes := by
  rintro s c calls ⟨hf, hc⟩ rfl
  exact exec_of_effect hf hc (.off c _ rfl)

/-! ### Where the commands fault -/

/-- Settles O27: one reason for turning the command away per clause, and the codes. -/
theorem faultEntryRecordsAndAnswers : Obligations.FaultEntryRecordsAndAnswers := by
  intro s enter hf henter
  obtain rfl : enter = s.takeFault := funext₂ henter
  refine ⟨fun hs => ⟨fun p f hp => ?_, fun i hi => ?_⟩, fun c hc => ⟨fun p hp => ?_, fun d hd => ?_, fun p f => ?_⟩,
    ⟨rfl, rfl, rfl, rfl⟩, rfl, fun cause => ?_⟩
  · exact exec_of_turnedAway hf hs (.constructPin p f hp)
  · exact exec_of_turnedAway hf hs (.notConstructed i hi)
  · exact exec_of_turnedAway hf hc (.setGpioPin p c hp)
  · exact exec_of_turnedAway hf hc (.onDuty d c hd)
  · exact exec_of_turnedAway hf hc (.constructTwice p f c)
  · cases cause <;> rfl

/-- The record left by a command that is presented and turned away. -/
theorem fault_of_step_turnedAway {s t : State} {k : Nat} {w : CommandWord} {rest : List HostInput} {i : Instr}
    {slot : Option Controller} {cause : Cause} {info : FaultInfo} (hin : s.inputs = .command k w :: rest)
    (hf : s.Running) (hi : decode w = .command i) (hs : s.inst[k]? = some slot) (h : TurnedAway i slot cause info)
    (hstep : step s = .next t) : t.fault = some ⟨cause, k, info⟩ := by
  have hk : k < s.inst.length := (List.getElem?_eq_some_iff.mp hs).1
  rw [step_of_command hin hf hk hi, exec_of_turnedAway (s := s.present k rest) hf hs h] at hstep
  cases hstep
  rfl

/-- Settles O28: the decoder decides first, then the lifecycle, then the operand; the recorded encoding is the word. -/
theorem faultPriorityIsDecodeLifecycleOperand : Obligations.FaultPriorityIsDecodeLifecycleOperand := by
  intro s t k w rest hin hf hk hstep
  refine ⟨fun why hwhy => ?reserved, fun i hi => ⟨fun hm c hc => ?twice, fun hm hs => ?notConstructed⟩,
    fun p f hi hs hp => ?constructPin, fun p c hi hc hp => ?setGpioPin, fun d c hi hc hd => ?onDuty⟩
  case reserved =>
    rw [step_of_reserved hin hf hk hwhy] at hstep
    cases hstep
    rfl
  case twice =>
    cases i with
    | construct p f =>
      rw [fault_of_step_turnedAway hin hf hi hc (.constructTwice p f c) hstep, encode_of_decode hi]
    | _ => cases hm
  case notConstructed =>
    rw [fault_of_step_turnedAway hin hf hi hs (.notConstructed i hm) hstep, encode_of_decode hi]
  case constructPin => exact fault_of_step_turnedAway hin hf hi hs (.constructPin p f hp) hstep
  case setGpioPin => exact fault_of_step_turnedAway hin hf hi hc (.setGpioPin p c hp) hstep
  case onDuty => exact fault_of_step_turnedAway hin hf hi hc (.onDuty d c hd) hstep

/-! ### The enable state machine -/

/-- A command leaves the flag that the state machine of R34 gives it, from the flag before it. -/
theorem Effect.enabled_eq {cfg : Config} {i : Instr} {slot : Option Controller} {c : Controller} {calls : List Call}
    (h : Effect cfg i slot c calls) :
    c.enabled = enabledAfter i.mnemonic ((slot.map Controller.enabled).getD false) := by
  cases h with
  | on d hd old _ hc => subst hc; rfl
  | off old _ hc => subst hc; rfl
  | _ => rfl

/-- CONSTRUCT completes at an unconstructed instance. -/
theorem Effect.slot_of_construct {cfg : Config} {i : Instr} {slot : Option Controller} {c : Controller}
    {calls : List Call} (h : Effect cfg i slot c calls) (hi : i.mnemonic = .construct) : slot = none := by
  cases h with
  | construct p f => rfl
  | _ => cases hi

/-- Settles O49: a completed command leaves the state machine's flag, and a command turned away leaves the instances. -/
theorem enableStateMachine : Obligations.EnableStateMachine := by
  intro i s t hexec
  refine ⟨fun ht => ?completed, fun ht => (exec_sameState_of_fault hexec ht).inst⟩
  case completed =>
    obtain ⟨-, slot, hslot, ⟨c, calls, heffect, rfl⟩ | ⟨cause, info, -, rfl⟩⟩ := exec_next hexec
    · have hflag := heffect.enabled_eq
      refine ⟨c, State.holds_complete hslot c calls, fun hi => ?_, fun hi => ?_, fun hi => ?_, fun hi old hold => ?_⟩
      · exact ⟨hslot.trans (congrArg some (heffect.slot_of_construct hi)), by rw [hflag, hi]; rfl⟩
      · rw [hflag, hi]; rfl
      · rw [hflag, hi]; rfl
      · obtain rfl : slot = some old := Option.some.inj (hslot.symm.trans hold)
        obtain hi | hi := hi
        · rw [hflag, hi]; rfl
        · rw [hflag, hi]; rfl
    · exact absurd ht (by simp)

/-! ### What a command does not read -/

/-- Settles O35: the effect and the reason to turn away depend on the configuration and the slot at the port alone. -/
theorem otherInstancesDoNotMatter : Obligations.OtherInstancesDoNotMatter := by
  intro i s t others hlength hport hexec
  obtain ⟨hf, slot, hslot, ⟨c, calls, heffect, rfl⟩ | ⟨cause, info, haway, rfl⟩⟩ := exec_next hexec
  · have hslot' : others[s.port]? = some slot := hport.trans hslot
    have hexec' := exec_of_effect (s := { s with inst := others }) hf hslot' heffect
    refine ⟨_, hexec', ?_, fun k hk => State.inst_complete_of_ne _ c calls hk, rfl, rfl, rfl, rfl⟩
    exact (State.holds_complete (s := { s with inst := others }) hslot' c calls).trans
      (State.holds_complete hslot c calls).symm
  · have hslot' : others[s.port]? = some slot := hport.trans hslot
    have hexec' := exec_of_turnedAway (s := { s with inst := others }) hf hslot' haway
    exact ⟨_, hexec', hport, fun _ _ => rfl, rfl, rfl, rfl, rfl⟩

/-- The same state with another image and another trace. -/
def State.withImage (s : State) (im : Image) (trace : List (Nat × Call)) : State :=
  { s with image := im, trace := trace }

/-- Two outcomes that are the same in everything but the image and the trace of a next state. -/
inductive SameButImage : Host.Outcome State Fault Refusal → Host.Outcome State Fault Refusal → Prop where
  | next (t : State) (im : Image) (trace : List (Nat × Call)) :
      SameButImage (.next t) (.next (t.withImage im trace))
  | fault (r : Fault) : SameButImage (.fault r) (.fault r)
  | refused (r : Refusal) : SameButImage (.refused r) (.refused r)

theorem exec_sameButImage (i : Instr) (s : State) (im : Image) (trace : List (Nat × Call)) :
    SameButImage (exec i s) (exec i (s.withImage im trace)) := by
  cases hf : s.fault with
  | some r =>
    rw [exec_halted hf, exec_halted (s := s.withImage im trace) hf]
    exact .fault _
  | none =>
    cases hslot : s.inst[s.port]? with
    | none =>
      rw [exec_noSuchPort hf hslot, exec_noSuchPort (s := s.withImage im trace) hf hslot]
      exact .refused _
    | some slot =>
      obtain ⟨c, calls, heffect⟩ | ⟨cause, info, haway⟩ := effect_or_turnedAway s.config i slot
      · rw [exec_of_effect hf hslot heffect, exec_of_effect (s := s.withImage im trace) hf hslot heffect]
        exact .next _ _ _
      · rw [exec_of_turnedAway hf hslot haway,
          exec_of_turnedAway (s := s.withImage im trace) hf hslot haway]
        exact .next _ _ _

theorem step_sameButImage (s : State) (im : Image) (trace : List (Nat × Call)) :
    SameButImage (step s) (step (s.withImage im trace)) := by
  cases hin : s.inputs with
  | nil =>
    rw [step_of_no_input hin, step_of_no_input (s := s.withImage im trace) hin]
    exact .refused _
  | cons input rest =>
    cases input with
    | reset =>
      rw [step_of_reset hin, step_of_reset (s := s.withImage im trace) hin]
      exact .next (s.assertReset rest) Image.unwritten []
    | command k w =>
      cases hf : s.fault with
      | some r =>
        rw [step_of_command_halted hf hin, step_of_command_halted (s := s.withImage im trace) hf hin]
        exact .fault _
      | none =>
        obtain hk | hk := lt_or_ge k s.inst.length
        · cases hd : decode w with
          | command i =>
            rw [step_of_command hin hf hk hd, step_of_command (s := s.withImage im trace) hin hf hk hd]
            exact exec_sameButImage i (s.present k rest) im trace
          | reserved why =>
            rw [step_of_reserved hin hf hk hd, step_of_reserved (s := s.withImage im trace) hin hf hk hd]
            exact .next _ _ _
        · rw [step_of_command_noSuchPort hin hf hk,
            step_of_command_noSuchPort (s := s.withImage im trace) hin hf hk]
          exact .refused _

/-- Settles O36: where the step leads is decided without the image and the trace. -/
theorem theImageIsNeverRead : Obligations.TheImageIsNeverRead := by
  intro s im trace
  have hsame : SameButImage (step s) (step { s with image := im, trace := trace }) := step_sameButImage s im trace
  refine ⟨fun t ht => ?_, fun r hr => ?_, fun r hr => ?_⟩
  · rw [ht] at hsame
    generalize step _ = o at hsame
    cases hsame with
    | next _ im' trace' => exact ⟨im', trace', rfl⟩
  · rw [hr] at hsame
    generalize step _ = o at hsame ⊢
    cases hsame
    rfl
  · rw [hr] at hsame
    generalize step _ = o at hsame ⊢
    cases hsame
    rfl

end Sys2Proof.Machine

/-! The frame of each command (42_controller_ops.md rules R144 to R148): what it leaves unchanged outside its instance,
of its instance, and of the register image. -/

namespace Sys2Proof.Machine

open Sys2Proof

/-! ### Outside the instance -/

theorem State.sameOutside_takeFault (s : State) (cause : Cause) (info : FaultInfo) :
    s.SameOutside (s.takeFault cause info) where
  config := rfl
  count := rfl
  others _ _ := rfl
  inputs := rfl
  port := rfl
  trace := List.prefix_rfl
  responses := ⟨_, rfl⟩

theorem State.sameOutside_complete (s : State) (c : Controller) (calls : List Call) :
    s.SameOutside (s.complete c calls) where
  config := rfl
  count := List.length_set
  others _ hk := s.inst_complete_of_ne c calls hk
  inputs := rfl
  port := rfl
  trace := List.prefix_append _ _
  responses := ⟨_, rfl⟩

section Exec

variable {i : Instr} {s t : State}

theorem exec_sameOutside (hexec : exec i s = .next t) : s.SameOutside t := by
  obtain ⟨-, _, -, ⟨c, calls, -, rfl⟩ | ⟨cause, info, -, rfl⟩⟩ := exec_next hexec
  · exact s.sameOutside_complete c calls
  · exact s.sameOutside_takeFault cause info

theorem exec_ok_or_sameState (hexec : exec i s = .next t) : t.fault = none ∨ s.SameState t :=
  or_iff_not_imp_left.mpr (exec_sameState_of_fault hexec)

/-- The inversion of `exec` where it is known what the instance at the port holds. -/
theorem exec_next_of_slot {slot : Option Controller} (hs : s.inst[s.port]? = some slot) (hexec : exec i s = .next t) :
    (∃ c calls, Effect s.config i slot c calls ∧ t = s.complete c calls) ∨
      ∃ cause info, TurnedAway i slot cause info ∧ t = s.takeFault cause info := by
  obtain ⟨-, slot', hs', h⟩ := exec_next hexec
  obtain rfl : slot = slot' := Option.some.inj (hs.symm.trans hs')
  exact h

/-- At an unconstructed instance only CONSTRUCT has an effect. -/
theorem exec_sameState_of_unconstructed (hi : i.mnemonic ≠ .construct) (hexec : exec i s = .next t)
    (hs : s.inst[s.port]? = some none) : s.SameState t := by
  obtain ⟨c, calls, heffect, rfl⟩ | ⟨cause, info, -, rfl⟩ := exec_next_of_slot hs hexec
  · cases heffect
    exact absurd rfl hi
  · exact s.sameState_takeFault cause info

/-- At a constructed instance CONSTRUCT has no effect. -/
theorem exec_construct_sameState_of_holds {p : Int} {f : Freq} {c : Controller}
    (hexec : exec (.construct p f) s = .next t) (hc : s.Holds s.port c) : s.SameState t := by
  obtain ⟨new, calls, heffect, rfl⟩ | ⟨cause, info, -, rfl⟩ := exec_next_of_slot hc hexec
  · cases heffect
  · exact s.sameState_takeFault cause info

end Exec

theorem pin_eq_of_operand {p q : Pin} (h : (p.val : Int) = q.val) : p = q := Fin.ext (Int.ofNat_inj.mp h)

/-! ### The frames -/

/-- Settles O31: CONSTRUCT writes the slice, the channel and the pin of its operand, or nothing. -/
theorem constructFrame : Obligations.ConstructFrame := by
  intro s t p f hexec
  refine ⟨exec_sameOutside hexec, exec_ok_or_sameState hexec, fun c hc => exec_construct_sameState_of_holds hexec hc,
    fun q hq => ?_⟩
  obtain ⟨-, slot, -, ⟨c, calls, heffect, rfl⟩ | ⟨cause, info, -, rfl⟩⟩ := exec_next hexec
  · cases heffect with
    | construct p' _ =>
      obtain rfl : p' = q := pin_eq_of_operand hq
      apply (s.image.sameExcept_applyAll _).mono <;>
        simp [Controller.bindPin, Controller.programTiming, Controller.programLevel, Controller.applyEnable]
  · exact .refl s.image _ _ _ _ _

/-- Settles O32: SETGPIO writes the new slice, channel and pin, releases the old slice and pin, or writes nothing. -/
theorem setGpioFrame : Obligations.SetGpioFrame := by
  intro s t p hexec
  refine ⟨exec_sameOutside hexec, exec_ok_or_sameState hexec,
    exec_sameState_of_unconstructed (by simp [Instr.mnemonic]) hexec, fun c hc => ?_⟩
  obtain ⟨new, calls, heffect, rfl⟩ | ⟨cause, info, -, rfl⟩ := exec_next_of_slot hc hexec
  · cases heffect with
    | setGpio p' _ =>
      refine ⟨⟨_, State.holds_complete hc _ _, rfl, rfl, rfl, rfl, rfl⟩, fun q hq => ?_⟩
      obtain rfl : p' = q := pin_eq_of_operand hq
      cases hon : c.enabled <;> apply (s.image.sameExcept_applyAll _).mono <;>
        simp [Controller.release, Controller.bindPin, Controller.programTiming, Controller.programLevel,
          Controller.applyEnable, hon]
  · exact ⟨⟨c, hc, rfl, rfl, rfl, rfl, rfl⟩, fun q _ => .refl s.image _ _ _ _ _⟩

/-- Settles O33: SETFREQ writes the timing of its slice and applies the flag. -/
theorem setFreqFrame : Obligations.SetFreqFrame := by
  intro s t f hexec
  refine ⟨exec_sameOutside hexec, exec_ok_or_sameState hexec,
    exec_sameState_of_unconstructed (by simp [Instr.mnemonic]) hexec, fun c hc => ?_⟩
  obtain ⟨new, calls, heffect, rfl⟩ | ⟨cause, info, haway, rfl⟩ := exec_next_of_slot hc hexec
  · cases heffect
    refine ⟨⟨_, State.holds_complete hc _ _, rfl, rfl, rfl, rfl, rfl⟩, ?_⟩
    cases hon : c.enabled <;> apply (s.image.sameExcept_applyAll _).mono <;>
      simp [Controller.programTiming, Controller.programLevel, Controller.applyEnable, hon]
  · cases haway

/-- Settles O34: OFF applies the flag alone; ON programs its one level too, and writes no output. -/
theorem onAndOffFrame : Obligations.OnAndOffFrame := by
  intro s t i hi hexec
  have hm : i.mnemonic ≠ .construct := by obtain ⟨d, rfl⟩ | rfl := hi <;> simp [Instr.mnemonic]
  refine ⟨exec_sameOutside hexec, exec_ok_or_sameState hexec, exec_sameState_of_unconstructed hm hexec, fun c hc => ?_⟩
  obtain ⟨new, calls, heffect, rfl⟩ | ⟨cause, info, -, rfl⟩ := exec_next_of_slot hc hexec
  · cases heffect with
    | on d _ _ _ hnew =>
      subst hnew
      refine ⟨⟨_, State.holds_complete hc _ _, rfl, rfl, rfl, rfl, rfl, rfl, fun h => by cases h⟩,
        fun h => (by cases h), fun _ => ?_⟩
      apply (s.image.sameExcept_applyAll _).mono <;> simp [Controller.programLevel, Controller.applyEnable]
    | off _ _ hnew =>
      subst hnew
      refine ⟨⟨_, State.holds_complete hc _ _, rfl, rfl, rfl, rfl, rfl, rfl, fun _ => rfl⟩, fun _ => ?_,
        fun h => absurd rfl h⟩
      apply (s.image.sameExcept_applyAll _).mono <;> simp [Controller.applyEnable]
    | _ => simp at hi
  · exact ⟨⟨c, hc, rfl, rfl, rfl, rfl, rfl, rfl, fun _ => rfl⟩, fun _ => .refl s.image _ _ _ _ _,
      fun _ => .refl s.image _ _ _ _ _⟩

end Sys2Proof.Machine

/-! The source's properties of the commands (42_controller_ops.md rules R145 to R151, 70_reset_and_hazards.md rules
R214, R217 and R219): what the image shows during a command and after it. -/

namespace Sys2Proof.Machine

open Sys2Proof

/-! ### Observing a pin -/

section Observe

variable {im : Image} {c : Controller}

/-- A released pin is driven with nothing the rules know of (R43). -/
theorem Image.pinDrive_of_func_none {p : Pin} (h : im.func p = some .none) : im.pinDrive p = .unspecified := by
  simp only [pinDrive, h]

/-- So is a PWM pin whose slice is disabled (R43). -/
theorem Image.pinDrive_of_disabled_slice {p : Pin} (hfunc : im.func p = some .pwm)
    (hen : im.en (topo p).1 = some false) : im.pinDrive p = .unspecified := by
  simp only [pinDrive, hfunc, hen]

section Shape

variable {s : SliceIx} {ch : Channel} {w : Ticks} (htop : im.top s = some w)

include htop

theorem Image.pwmShape_of_level_zero (hcc : im.cc s ch = some 0#16) : im.pwmShape s ch = .alwaysLow := by
  simp only [pwmShape, htop, hcc, if_true]

theorem Image.pwmShape_of_level_eq_period (hcc : im.cc s ch = some w) (hw : w ≠ 0#16) :
    im.pwmShape s ch = .alwaysHigh := by
  simp only [pwmShape, htop, hcc, if_neg hw, if_true]

end Shape

/-! ### Programming again what the image already holds -/

theorem Controller.TimingIn.applyAll_programTiming (h : c.TimingIn im) : im.applyAll c.programTiming = im := by
  obtain ⟨hcc, hdiv, htop⟩ := h
  rw [Image.applyAll_programTiming]
  apply Image.eq_of_reads
  case hdiv => intro i; by_cases hi : i = c.slice <;> simp [hi, hdiv]
  case htop => intro i; by_cases hi : i = c.slice <;> simp [hi, htop]
  case hcc => intro i ch; by_cases hi : i = c.slice ∧ ch = c.channel <;> simp [hi, hcc]
  all_goals simp

theorem Controller.OutputIn.applyAll_applyEnable (h : c.OutputIn im) : im.applyAll c.applyEnable = im := by
  apply Image.eq_of_reads
  case hen => intro i; by_cases hi : i = c.slice <;> simp [hi, h.en_eq]
  case hfunc => intro p; by_cases hp : p = c.pin <;> simp [hp, h.func_eq]
  case hout =>
    intro p
    by_cases hp : c.enabled = false ∧ p = c.pin
    · simp [hp, h.out_eq hp.1]
    · simp [hp]
  all_goals simp

/-- R145 (b): SETGPIO to the same pin passes through a released pin and a disabled slice, and restores both. -/
theorem Controller.AgreesWith.applyAll_setGpio (h : c.AgreesWith im) :
    im.applyAll (c.release ++ c.bindPin ++ c.programTiming ++ c.applyEnable) = im := by
  obtain ⟨htiming, houtput⟩ := h
  have hkept : c.TimingIn ((im.applyAll c.release).applyAll c.bindPin) := by simpa [TimingIn] using htiming
  rw [Image.applyAll_append, Image.applyAll_append, Image.applyAll_append, hkept.applyAll_programTiming]
  apply Image.eq_of_reads
  case hen => intro i; by_cases hi : i = c.slice <;> simp [hi, houtput.en_eq]
  case hfunc => intro p; by_cases hp : p = c.pin <;> simp [hp, houtput.func_eq]
  case hout =>
    intro p
    by_cases hp : c.enabled = false ∧ p = c.pin
    · simp [hp, houtput.out_eq hp.1]
    · simp [hp]
  all_goals simp

/-- R145: nothing after the release writes the function of the old pin. -/
theorem Image.func_of_moved_pin {d : Controller} (im : Image) (hpin : c.pin ≠ d.pin) :
    (im.applyAll (c.release ++ d.bindPin ++ d.programTiming ++ d.applyEnable)).func c.pin = some .none := by
  simp [applyAll_append, applyAll_programTiming, hpin]

end Observe

/-! ### During SETFREQ -/

@[simp] theorem Image.during_nil (im : Image) : im.during [] = [im] := by simp [during]

@[simp] theorem Image.during_cons (im : Image) (call : Call) (calls : List Call) :
    im.during (call :: calls) = im :: (im.apply call).during calls := by simp [during]

/-- Settles O39: the five calls of an enabled SETFREQ, one image after each. -/
theorem setFreqPassesThroughIntermediateImages : Obligations.SetFreqPassesThroughIntermediateImages := by
  intro s c f ⟨hf, hc⟩ hon
  have hcalls : (c.retune s.config f).programTiming ++ (c.retune s.config f).applyEnable =
      [.setClkDiv c.slice (freqConv s.config.S f.toNat).1,
        .setPeriod c.slice (BitVec.ofNat 16 (freqConv s.config.S f.toNat).2),
        .setLevel c.slice c.channel (c.retune s.config f).level, .gpioSetFunctionPwm c.pin,
        .setSliceEnabled c.slice true] := by
    simp [Controller.programTiming, Controller.programLevel, Controller.applyEnable, hon]
  refine ⟨_, _, _, _, _, _, _, exec_of_effect hf hc (.setFreq f c), rfl,
    by simp only [hcalls, Image.during_cons, Image.during_nil]; rfl, ?_⟩
  refine ⟨by simp, by simp, by simp, by simp, by simp; rfl, ?_⟩
  rw [State.image_complete, hcalls]
  rfl

/-! ### After ON and OFF -/

/-- Settles O40: ON programs the rounded quotient of the wrap it finds and its duty. -/
theorem onProgramsTheLevelOfItsDuty : Obligations.OnProgramsTheLevelOfItsDuty := by
  intro s c d ⟨hf, hc⟩ hd
  refine ⟨_, exec_of_effect hf hc (.on_ofNat s.config c hd), ?_, ?_, ?_⟩
  · simp [levelNat_eq_roundHA]
  · rintro rfl; simp
  · rintro rfl; simp

/-- Settles O41: ON leaves the output as the set flag says; level 0 is always low, and the level of duty 100 is the
period, which is not 0. -/
theorem onConnectsTheWaveform : Obligations.OnConnectsTheWaveform := by
  intro s c d ⟨hf, hc⟩ hd htopo
  have heffect := Effect.on_ofNat s.config c hd
  refine ⟨_, exec_of_effect hf hc heffect, ?drive, fun htop hwrap => ?shape⟩
  case drive => exact (heffect.outputIn s.image).pinDrive_of_enabled htopo rfl
  case shape =>
    refine ⟨?_, ?_⟩
    · rintro rfl
      exact Image.pwmShape_of_level_zero (w := c.wrap) (by simpa using htop) (by simp)
    · rintro rfl
      have hne : c.wrap ≠ 0#16 := by rintro h; simp [h] at hwrap
      exact Image.pwmShape_of_level_eq_period (w := c.wrap) (by simpa using htop) (by simp) hne

/-- Settles O42: OFF leaves the output as the cleared flag says. -/
theorem offDrivesThePinLow : Obligations.OffDrivesThePinLow := by
  intro s c ⟨hf, hc⟩
  have heffect := Effect.off (cfg := s.config) c _ rfl
  have houtput := heffect.outputIn s.image
  exact ⟨_, exec_of_effect hf hc heffect, houtput.pinDrive_of_disabled rfl, houtput.en_eq⟩

/-! ### After SETFREQ, SETGPIO and CONSTRUCT -/

/-- Settles O43: SETFREQ replaces the frequency and its pair, and programs the level of the new wrap. -/
theorem setFreqKeepsThePercentage : Obligations.SetFreqKeepsThePercentage := by
  intro s c f ⟨hf, hc⟩
  obtain ⟨hlevel, -, -⟩ := Controller.timingIn_programmed s.image [] (c.retune s.config f)
  exact ⟨_, _, exec_of_effect hf hc (.setFreq f c), State.holds_complete hc _ _, rfl, rfl, rfl,
    Prod.ext rfl (toNat_ofNat_freqConv_wrap _ _), hlevel⟩

/-- Settles O44: the new binding has the output its flag says; the release of the old pin and slice is overwritten by
nothing that belongs to another pin or slice. -/
theorem setGpioMovesTheOutput : Obligations.SetGpioMovesTheOutput := by
  intro s c p ⟨hf, hc⟩
  have heffect := Effect.setGpio (cfg := s.config) p c
  have houtput := heffect.outputIn s.image
  refine ⟨_, exec_of_effect hf hc heffect, houtput.pinDrive_of_enabled rfl, houtput.pinDrive_of_disabled,
    fun hp => ?oldPin, fun hslice => ?oldSlice⟩
  case oldPin =>
    have hreleased := s.image.func_of_moved_pin (c := c) (d := c.bind p) hp.symm
    exact ⟨hreleased, Image.pinDrive_of_func_none hreleased⟩
  case oldSlice => simp [Image.applyAll_append, Image.applyAll_programTiming, hslice.symm]

/-- Binding the pin that is bound changes no attribute. -/
theorem Controller.bind_same_pin {c : Controller} (h : c.TopologyHolds) : c.bind c.pin = c := by
  simp only [bind, ← h.slice_eq, ← h.channel_eq]

/-- Giving an instance the attributes it holds changes no instance. -/
theorem State.inst_complete_of_holds {s : State} {c : Controller} (hc : s.Holds s.port c) (calls : List Call) :
    (s.complete c calls).inst = s.inst := by
  obtain ⟨hlt, heq⟩ := List.getElem?_eq_some_iff.mp hc
  rw [State.inst_complete, ← heq, List.set_getElem_self]

/-- Settles O45: the whole sequence is made, for attributes that stay and on an image that holds them already. -/
theorem setGpioToTheSamePinRestoresTheImage : Obligations.SetGpioToTheSamePinRestoresTheImage := by
  intro s c ⟨hf, hc⟩ htopo hagree
  have heffect := Effect.setGpio (cfg := s.config) c.pin c
  rw [Controller.bind_same_pin htopo] at heffect
  refine ⟨_, exec_of_effect hf hc heffect, hagree.applyAll_setGpio, State.inst_complete_of_holds hc _, ?_⟩
  cases hon : c.enabled <;>
    simp [Controller.release, Controller.bindPin, Controller.programTiming, Controller.programLevel,
      Controller.applyEnable, hon]

/-- Settles O46: CONSTRUCT programs the timing of a fresh controller and leaves the output as its cleared flag says. -/
theorem constructLeavesThePinLow : Obligations.ConstructLeavesThePinLow := by
  intro s p f hf hs
  have heffect := Effect.construct (cfg := s.config) p f
  have houtput := heffect.outputIn s.image
  obtain ⟨hlevel, hdiv, htop⟩ :=
    Controller.timingIn_programmed s.image (Controller.fresh s.config p f).bindPin (Controller.fresh s.config p f)
  rw [Controller.level_fresh] at hlevel
  exact ⟨_, exec_of_effect hf hs heffect, houtput.pinDrive_of_disabled rfl, houtput.en_eq, hdiv, htop, hlevel⟩

/-! ### Repetition and sharing -/

/-- A command whose effect is the same again, on an image that its calls leave alone, only repeats its calls. -/
theorem exec_twice {s : State} {i : Instr} {c new : Controller} {calls : List Call} (hf : s.Running)
    (hc : s.Holds s.port c) (h : Effect s.config i (some c) new calls) (hagain : Effect s.config i (some new) new calls)
    (himage : (s.image.applyAll calls).applyAll calls = s.image.applyAll calls) :
    ∃ t u calls, exec i s = .next t ∧ exec i t = .next u ∧ u.inst = t.inst ∧ u.image = t.image ∧
      t.trace = s.trace ++ calls ∧ u.trace = t.trace ++ calls := by
  have hnew : (s.complete new calls).Holds s.port new := State.holds_complete hc new calls
  have hexec := exec_of_effect (s := s.complete new calls) hf hnew hagain
  exact ⟨_, _, _, exec_of_effect hf hc h, hexec, State.inst_complete_of_holds hnew calls, himage, rfl, rfl⟩

/-- Settles O47: the second time the timing and the output are in the image already. -/
theorem repeatedSetFreqAndOffChangeNothingMore : Obligations.RepeatedSetFreqAndOffChangeNothingMore := by
  rintro s c i ⟨hf, hc⟩ (⟨f, rfl⟩ | rfl)
  · have heffect := Effect.setFreq (cfg := s.config) f c
    refine exec_twice hf hc heffect (.setFreq f (c.retune s.config f)) ?_
    have htiming : (c.retune s.config f).TimingIn
        (s.image.applyAll ((c.retune s.config f).programTiming ++ (c.retune s.config f).applyEnable)) :=
      Controller.timingIn_programmed s.image [] _
    rw [Image.applyAll_append, htiming.applyAll_programTiming]
    exact (heffect.outputIn s.image).applyAll_applyEnable
  · have heffect := Effect.off (cfg := s.config) c _ rfl
    exact exec_twice hf hc heffect (.off _ _ rfl) (heffect.outputIn s.image).applyAll_applyEnable

/-- Settles O48: the timing and the enable bit belong to the slice, and the other instance's attributes and pin function
are not touched. -/
theorem sharedSliceIsOverwrittenUndetected : Obligations.SharedSliceIsOverwrittenUndetected := by
  intro s c d j f ⟨hf, hc⟩ hj hd hslice hpin htopo hfunc
  constructor
  · obtain ⟨-, hdiv, htop⟩ := Controller.timingIn_programmed s.image [] (c.retune s.config f)
    rw [hslice]
    exact ⟨_, exec_of_effect hf hc (.setFreq f c), hf, (State.inst_complete_of_ne s _ _ hj).trans hd, hdiv, htop⟩
  · have heffect := Effect.off (cfg := s.config) c _ rfl
    have hen := (heffect.outputIn s.image).en_eq
    refine ⟨_, exec_of_effect hf hc heffect, hf, (State.inst_complete_of_ne s _ _ hj).trans hd, ?_, ?_⟩
    · rw [hslice]; exact hen
    · refine Image.pinDrive_of_disabled_slice ?_ ?_
      · simpa [hpin] using hfunc
      · rw [← htopo.slice_eq, hslice]; exact hen

end Sys2Proof.Machine
